-- ==== Sys2Proof/Word.lean ====
section
/-! DEFINITION. The word types of the ring engine (00_scope.md R14, R15; 30_encoding.md R123). -/

namespace Sys2Proof

/-- One Region byte (00_scope.md R15). -/
abbrev Byte := BitVec 8

/-- One descriptor word or physical-address register, 32 bits (30_encoding.md R110; 10_state.md R38). -/
abbrev Word := BitVec 32

/-- One command word, 64 bits (30_encoding.md R123). -/
abbrev CmdWord := BitVec 64

end Sys2Proof
end

