-- ==== Sys2Proof/Config.lean ====
section
/-! DEFINITION. The configuration of a run (00_scope.md R12, 10_state.md R30), what the environment chooses
(the turns and the draws, 45_dma_engine.md R294, 00_scope.md R16), and the free values. -/

namespace Sys2Proof

/-- `OVERSIZE_POLICY` (00_scope.md R12, 44_driver.md R248). -/
inductive OversizePolicy where
  | truncate
  | reject
  deriving DecidableEq, Repr, Inhabited

/-- The parameters of a run that are open (00_scope.md R12). `RXD`, `TXD`, the alignments and the address
widths are fixed and stand below as constants. All are natural numbers (00_scope.md R14). -/
structure Config where
  /-- `N`: descriptors per ring -/
  n : Nat
  /-- `MTU`: bytes per buffer slot -/
  mtu : Nat
  oversizePolicy : OversizePolicy
  /-- `HARNESS`: whether the `SIM_*` commands are legal -/
  harness : Bool
  /-- `va_base`: virtual address of the Region's first byte -/
  vaBase : Nat
  /-- `pa_base`: physical address of the Region's first byte -/
  paBase : Nat
  /-- `size`: bytes in the Region -/
  size : Nat
  deriving DecidableEq, Repr, Inhabited

/-- `RXD`: bytes per RX descriptor (00_scope.md R12). -/
abbrev Config.RXD : Nat := 4
/-- `TXD`: bytes per TX descriptor and of the dummy descriptor (00_scope.md R12). -/
abbrev Config.TXD : Nat := 8
/-- `RXD_ALIGN` (00_scope.md R12). -/
abbrev Config.RXD_ALIGN : Nat := 4
/-- `TXD_ALIGN` (00_scope.md R12). -/
abbrev Config.TXD_ALIGN : Nat := 8
/-- `BUF_ALIGN` (00_scope.md R12). -/
abbrev Config.BUF_ALIGN : Nat := 4
/-- `PA_W`: physical address width (00_scope.md R12). -/
abbrev Config.PA_W : Nat := 32
/-- `VA_W`: virtual address width (00_scope.md R12). -/
abbrev Config.VA_W : Nat := 64

/-- The normative parameters (00_scope.md R12), over a Region of the exact minimum size (40_layout.md R153).
DESIGN CHOICE, log 1 (unsafe): the three Region values are open in the spec; these are the values of
configuration KD of 95_test_vectors.md. -/
def Config.normative : Config where
  n := 128
  mtu := 1600
  oversizePolicy := .truncate
  harness := false
  vaBase := 0x40000000
  paBase := 0x70000000
  size := 411144

/-- The four steps of the DMA agent (45_dma_engine.md R294; 30_encoding.md R128). -/
inductive DmaEvent where
  | rxFrame
  | rxDrop
  | txFrame
  | txStop
  deriving DecidableEq, Repr, Inhabited

/-- The draws the environment pins for one DMA step, as a trace writes them (30_encoding.md R131):
`data` for `@DMA_RX_FRAME data=...`, `stat` for `@DMA_TX_FRAME stat=...`. What is not pinned is a free value. -/
structure Draw where
  data : List Byte
  stat : Option (BitVec 14)
  deriving DecidableEq, Repr, Inhabited

/-- Nothing pinned: every draw is a free value. -/
def Draw.free : Draw where
  data := []
  stat := none

/-- Whose turn a step is (45_dma_engine.md R294): the software agent's next command, or one step of the
DMA agent with the draws pinned for it. -/
inductive Turn where
  | command
  | dma (e : DmaEvent) (d : Draw)
  deriving DecidableEq, Repr, Inhabited

/-- FREE VALUE, log 4 (safe): whose turn step number `t` is, where `State.agenda` does not say. The spec fixes
no schedule (45_dma_engine.md R294, 92_eei_decisions.md D54). -/
opaque Config.schedule : Nat → Turn

/-- FREE VALUE, log 7 (safe): byte `j` of the frame that arrives at step number `t`, where none is pinned
(45_dma_engine.md R303). -/
opaque Config.frameByte : Nat → Nat → Byte

/-- FREE VALUE, log 8 (safe): the completion status bits drawn at step number `t`, where none are pinned
(45_dma_engine.md R306). -/
opaque Config.statDraw : Nat → BitVec 14

/-- FREE VALUE, log 9 (safe): what the DMA agent reads at step number `t` from region offset `off` when no rule
has written that byte (20_memory.md R85, 45_dma_engine.md R297). -/
opaque Config.unwrittenByte : Nat → Nat → Byte

end Sys2Proof
end

