-- ==== Sys2Proof/Syntax.lean ====
section
/-! DEFINITION. The commands and DMA steps, one constructor per row of spec/opcode_table.json
(30_encoding.md R127, R128). -/

namespace Sys2Proof

/-- The ring selector of `BUF_RD` and `BUF_WR` (30_encoding.md R124), and the ring a DMA fault names
(60_exceptions.md R331). -/
inductive Ring where
  | rx
  | tx
  deriving DecidableEq, Repr, Inhabited

/-- The handle `HANDLE_DROP` names: 0 the receive handle, 1 the transmit handle (30_encoding.md R124). -/
inductive Which where
  | rx
  | tx
  deriving DecidableEq, Repr, Inhabited

/-- Every row of the opcode table. The four `dma` constructors are the DMA agent's steps: their codes label
a step in a trace and are no commands (30_encoding.md R128). -/
inductive Instr where
  | layout
  | rxSetup
  | rxAvail
  | rxRecvNext
  | rxMarkDone
  | txSetup
  | txAvail
  | txGetNextBuffer (len : Word)
  | txSendComplete
  | dummySetup
  | drvInit
  | drvReceive
  | drvTransmit
  | rxhBegin
  | rxhEnd (r : Word)
  | txhBegin (len : Word)
  | txhEnd (r : Word)
  | handleDrop (which : Which)
  | drvCaps
  | drvClassifyIrq
  | bufRd (ring : Ring) (off : BitVec 16)
  | bufWr (ring : Ring) (off : BitVec 16) (byte : Byte)
  | devSetRxqBase (pa : Word)
  | devSetTxqBase (pa : Word)
  | devSetTxq1Base (pa : Word)
  | devKick (pa : Word)
  | devClearIrq
  | simRxSetOwn (idx : Word)
  | simTxSetOwn (idx : Word)
  | dmaRxFrame
  | dmaRxDrop
  | dmaTxFrame
  | dmaTxStop
  deriving DecidableEq, Repr, Inhabited

/-- Who performs a row (30_encoding.md R127, R128: the `agent` column). -/
inductive Agent where
  | sw
  | dev
  | har
  | dma
  deriving DecidableEq, Repr

/-- The agent that performs an instruction (30_encoding.md R127, R128). -/
def Instr.agent : Instr → Agent
  | .layout | .rxSetup | .rxAvail | .rxRecvNext | .rxMarkDone | .txSetup | .txAvail | .txGetNextBuffer _
  | .txSendComplete | .dummySetup | .drvInit | .drvReceive | .drvTransmit | .rxhBegin | .rxhEnd _ | .txhBegin _
  | .txhEnd _ | .handleDrop _ | .drvCaps | .drvClassifyIrq | .bufRd _ _ | .bufWr _ _ _ => .sw
  | .devSetRxqBase _ | .devSetTxqBase _ | .devSetTxq1Base _ | .devKick _ | .devClearIrq => .dev
  | .simRxSetOwn _ | .simTxSetOwn _ => .har
  | .dmaRxFrame | .dmaRxDrop | .dmaTxFrame | .dmaTxStop => .dma

/-- Whether an instruction is a command a program may hold, not a DMA step (30_encoding.md R128). -/
def Instr.isCommand (i : Instr) : Bool := i.agent != .dma

/-- The mutating commands, refused while a handle is held (44_driver.md R241). -/
def Instr.mutating : Instr → Bool
  | .layout | .rxSetup | .rxRecvNext | .rxMarkDone | .txSetup | .txGetNextBuffer _ | .txSendComplete | .dummySetup
  | .drvInit | .drvReceive | .drvTransmit | .devSetRxqBase _ | .devSetTxqBase _ | .devSetTxq1Base _ => true
  | .rxAvail | .txAvail | .rxhBegin | .rxhEnd _ | .txhBegin _ | .txhEnd _ | .handleDrop _ | .drvCaps
  | .drvClassifyIrq | .bufRd _ _ | .bufWr _ _ _ | .devKick _ | .devClearIrq | .simRxSetOwn _ | .simTxSetOwn _
  | .dmaRxFrame | .dmaRxDrop | .dmaTxFrame | .dmaTxStop => false

/-- The row's name in spec/opcode_table.json. -/
def Instr.mnemonic : Instr → String
  | .layout => "LAYOUT"
  | .rxSetup => "RX_SETUP"
  | .rxAvail => "RX_AVAIL"
  | .rxRecvNext => "RX_RECV_NEXT"
  | .rxMarkDone => "RX_MARK_DONE"
  | .txSetup => "TX_SETUP"
  | .txAvail => "TX_AVAIL"
  | .txGetNextBuffer _ => "TX_GET_NEXT_BUFFER"
  | .txSendComplete => "TX_SEND_COMPLETE"
  | .dummySetup => "DUMMY_SETUP"
  | .drvInit => "DRV_INIT"
  | .drvReceive => "DRV_RECEIVE"
  | .drvTransmit => "DRV_TRANSMIT"
  | .rxhBegin => "RXH_BEGIN"
  | .rxhEnd _ => "RXH_END"
  | .txhBegin _ => "TXH_BEGIN"
  | .txhEnd _ => "TXH_END"
  | .handleDrop _ => "HANDLE_DROP"
  | .drvCaps => "DRV_CAPS"
  | .drvClassifyIrq => "DRV_CLASSIFY_IRQ"
  | .bufRd _ _ => "BUF_RD"
  | .bufWr _ _ _ => "BUF_WR"
  | .devSetRxqBase _ => "DEV_SET_RXQ_BASE"
  | .devSetTxqBase _ => "DEV_SET_TXQ_BASE"
  | .devSetTxq1Base _ => "DEV_SET_TXQ1_BASE"
  | .devKick _ => "DEV_KICK"
  | .devClearIrq => "DEV_CLEAR_IRQ"
  | .simRxSetOwn _ => "SIM_RX_SET_OWN"
  | .simTxSetOwn _ => "SIM_TX_SET_OWN"
  | .dmaRxFrame => "DMA_RX_FRAME"
  | .dmaRxDrop => "DMA_RX_DROP"
  | .dmaTxFrame => "DMA_TX_FRAME"
  | .dmaTxStop => "DMA_TX_STOP"

/-- The step of the DMA agent as an instruction of the table. -/
def DmaEvent.toInstr : DmaEvent → Instr
  | .rxFrame => .dmaRxFrame
  | .rxDrop => .dmaRxDrop
  | .txFrame => .dmaTxFrame
  | .txStop => .dmaTxStop

/-- The DMA step a trace code labels, for the four rows that are no commands. -/
def Instr.dmaEvent? : Instr → Option DmaEvent
  | .dmaRxFrame => some .rxFrame
  | .dmaRxDrop => some .rxDrop
  | .dmaTxFrame => some .txFrame
  | .dmaTxStop => some .txStop
  | .layout | .rxSetup | .rxAvail | .rxRecvNext | .rxMarkDone | .txSetup | .txAvail | .txGetNextBuffer _
  | .txSendComplete | .dummySetup | .drvInit | .drvReceive | .drvTransmit | .rxhBegin | .rxhEnd _ | .txhBegin _
  | .txhEnd _ | .handleDrop _ | .drvCaps | .drvClassifyIrq | .bufRd _ _ | .bufWr _ _ _ | .devSetRxqBase _
  | .devSetTxqBase _ | .devSetTxq1Base _ | .devKick _ | .devClearIrq | .simRxSetOwn _ | .simTxSetOwn _ => none

end Sys2Proof
end

