-- ==== Sys2Proof/WellFormed.lean ====
section
/-! DEFINITION. When an instruction is legal under a configuration (30_encoding.md R126, 45_dma_engine.md R309,
R310). Every other operand is legal at every value its type holds: the must-be-zero bits of a word are checked
by the decoder. -/

namespace Sys2Proof

/-- `HARNESS = 1` and `idx < N` for the harness commands (45_dma_engine.md R309, R310), nothing for the rest. -/
def Instr.wellFormed (c : Config) : Instr → Bool
  | .simRxSetOwn idx => c.harness && decide (idx.toNat < c.n)
  | .simTxSetOwn idx => c.harness && decide (idx.toNat < c.n)
  | .layout | .rxSetup | .rxAvail | .rxRecvNext | .rxMarkDone | .txSetup | .txAvail | .txGetNextBuffer _
  | .txSendComplete | .dummySetup | .drvInit | .drvReceive | .drvTransmit | .rxhBegin | .rxhEnd _ | .txhBegin _
  | .txhEnd _ | .handleDrop _ | .drvCaps | .drvClassifyIrq | .bufRd _ _ | .bufWr _ _ _ | .devSetRxqBase _
  | .devSetTxqBase _ | .devSetTxq1Base _ | .devKick _ | .devClearIrq | .dmaRxFrame | .dmaRxDrop | .dmaTxFrame
  | .dmaTxStop => true

end Sys2Proof
end

