-- ==== Sys2Proof/Decode.lean ====
section
/-! DEFINITION. The command word: its fields, the decoder (total, rejecting by name), the encoder, and the
opcode table as mask and pattern rows (30_encoding.md R123 to R130). -/

namespace Sys2Proof

/-- `OP`, bits 7:0 (30_encoding.md R123). -/
def opField (w : CmdWord) : Byte := w.extractLsb' 0 8

/-- `Z`, bits 31:8 (30_encoding.md R123). -/
def zField (w : CmdWord) : BitVec 24 := w.extractLsb' 8 24

/-- `ARG`, bits 63:32 (30_encoding.md R123). -/
def argField (w : CmdWord) : Word := w.extractLsb' 32 32

/-- Why a word is no instruction (30_encoding.md R126, R129). -/
inductive DecodeError where
  /-- bits 31:8 are not all zero -/
  | nonzeroZ
  /-- the operation code is reserved -/
  | reservedOp (op : Byte)
  /-- a must-be-zero bit of `ARG` is one -/
  | nonzeroArg (arg : Word)
  deriving DecidableEq, Repr

/-- `ARG[31]`: 0 RX, 1 TX (30_encoding.md R124). -/
def ringOfArg (arg : Word) : Ring := if arg.getLsbD 31 then .tx else .rx

/-- `ARG[0]`: 0 receive, 1 transmit (30_encoding.md R124). -/
def whichOfArg (arg : Word) : Which := if arg.getLsbD 0 then .tx else .rx

/-- `i` where `zero` holds of the must-be-zero bits of `ARG`, else the rejection that names them. -/
def whenZero (zero : Bool) (arg : Word) (i : Instr) : Except DecodeError Instr :=
  if zero then .ok i else .error (.nonzeroArg arg)

/-- The instruction of an operation code and an argument (30_encoding.md R124, R127, R128). -/
def decodeOp (op : Byte) (arg : Word) : Except DecodeError Instr :=
  match op with
  | 0x01#8 => whenZero (arg == 0) arg .layout
  | 0x02#8 => whenZero (arg == 0) arg .rxSetup
  | 0x03#8 => whenZero (arg == 0) arg .rxAvail
  | 0x04#8 => whenZero (arg == 0) arg .rxRecvNext
  | 0x05#8 => whenZero (arg == 0) arg .rxMarkDone
  | 0x06#8 => whenZero (arg == 0) arg .txSetup
  | 0x07#8 => whenZero (arg == 0) arg .txAvail
  | 0x08#8 => .ok (.txGetNextBuffer arg)
  | 0x09#8 => whenZero (arg == 0) arg .txSendComplete
  | 0x0A#8 => whenZero (arg == 0) arg .dummySetup
  | 0x0B#8 => whenZero (arg == 0) arg .drvInit
  | 0x0C#8 => whenZero (arg == 0) arg .drvReceive
  | 0x0D#8 => whenZero (arg == 0) arg .drvTransmit
  | 0x0E#8 => whenZero (arg == 0) arg .rxhBegin
  | 0x0F#8 => .ok (.rxhEnd arg)
  | 0x10#8 => .ok (.txhBegin arg)
  | 0x11#8 => .ok (.txhEnd arg)
  | 0x12#8 => whenZero (arg.extractLsb' 1 31 == 0) arg (.handleDrop (whichOfArg arg))
  | 0x13#8 => whenZero (arg == 0) arg .drvCaps
  | 0x14#8 => whenZero (arg == 0) arg .drvClassifyIrq
  | 0x15#8 => whenZero (arg.extractLsb' 16 15 == 0) arg (.bufRd (ringOfArg arg) (arg.extractLsb' 0 16))
  | 0x16#8 =>
    whenZero (arg.extractLsb' 24 7 == 0) arg
      (.bufWr (ringOfArg arg) (arg.extractLsb' 0 16) (arg.extractLsb' 16 8))
  | 0x20#8 => .ok (.devSetRxqBase arg)
  | 0x21#8 => .ok (.devSetTxqBase arg)
  | 0x22#8 => .ok (.devSetTxq1Base arg)
  | 0x23#8 => .ok (.devKick arg)
  | 0x24#8 => whenZero (arg == 0) arg .devClearIrq
  | 0x80#8 => whenZero (arg == 0) arg .dmaRxFrame
  | 0x81#8 => whenZero (arg == 0) arg .dmaRxDrop
  | 0x82#8 => whenZero (arg == 0) arg .dmaTxFrame
  | 0x83#8 => whenZero (arg == 0) arg .dmaTxStop
  | 0xF0#8 => .ok (.simRxSetOwn arg)
  | 0xF1#8 => .ok (.simTxSetOwn arg)
  | _ => .error (.reservedOp op)

/-- The instruction of a trace word: a command (30_encoding.md R126) or the DMA step its code labels (R128).
The legality of a harness command is checked where it runs (45_dma_engine.md R309, R310; log 14). -/
def decode (w : CmdWord) : Except DecodeError Instr :=
  if zField w = 0 then decodeOp (opField w) (argField w) else .error .nonzeroZ

/-- The command a program's word decodes to; none where the word is illegal in a program, the DMA event codes
included (30_encoding.md R126, R128). -/
def decodeCommand? (w : CmdWord) : Option Instr :=
  match decode w with
  | .ok i => if i.isCommand then some i else none
  | .error _ => none

/-- The operation code of an instruction (30_encoding.md R127, R128). -/
def Instr.opcode : Instr → Byte
  | .layout => 0x01
  | .rxSetup => 0x02
  | .rxAvail => 0x03
  | .rxRecvNext => 0x04
  | .rxMarkDone => 0x05
  | .txSetup => 0x06
  | .txAvail => 0x07
  | .txGetNextBuffer _ => 0x08
  | .txSendComplete => 0x09
  | .dummySetup => 0x0A
  | .drvInit => 0x0B
  | .drvReceive => 0x0C
  | .drvTransmit => 0x0D
  | .rxhBegin => 0x0E
  | .rxhEnd _ => 0x0F
  | .txhBegin _ => 0x10
  | .txhEnd _ => 0x11
  | .handleDrop _ => 0x12
  | .drvCaps => 0x13
  | .drvClassifyIrq => 0x14
  | .bufRd _ _ => 0x15
  | .bufWr _ _ _ => 0x16
  | .devSetRxqBase _ => 0x20
  | .devSetTxqBase _ => 0x21
  | .devSetTxq1Base _ => 0x22
  | .devKick _ => 0x23
  | .devClearIrq => 0x24
  | .simRxSetOwn _ => 0xF0
  | .simTxSetOwn _ => 0xF1
  | .dmaRxFrame => 0x80
  | .dmaRxDrop => 0x81
  | .dmaTxFrame => 0x82
  | .dmaTxStop => 0x83

/-- The ring selector as `ARG[31]` (30_encoding.md R124). -/
def Ring.bit : Ring → BitVec 1
  | .rx => 0
  | .tx => 1

/-- The handle selector as `ARG[0]` (30_encoding.md R124). -/
def Which.bit : Which → BitVec 1
  | .rx => 0
  | .tx => 1

/-- `ARG` of an instruction's word (30_encoding.md R124). -/
def Instr.arg : Instr → Word
  | .txGetNextBuffer len => len
  | .rxhEnd r => r
  | .txhBegin len => len
  | .txhEnd r => r
  | .handleDrop which => 0#31 ++ which.bit
  | .bufRd ring off => ring.bit ++ (0#15 ++ off)
  | .bufWr ring off byte => ring.bit ++ (0#7 ++ (byte ++ off))
  | .devSetRxqBase pa => pa
  | .devSetTxqBase pa => pa
  | .devSetTxq1Base pa => pa
  | .devKick pa => pa
  | .simRxSetOwn idx => idx
  | .simTxSetOwn idx => idx
  | .layout | .rxSetup | .rxAvail | .rxRecvNext | .rxMarkDone | .txSetup | .txAvail | .txSendComplete
  | .dummySetup | .drvInit | .drvReceive | .drvTransmit | .rxhBegin | .drvCaps | .drvClassifyIrq | .devClearIrq
  | .dmaRxFrame | .dmaRxDrop | .dmaTxFrame | .dmaTxStop => 0

/-- A command word: `ARG` in bits 63:32, zeros in 31:8, `OP` in 7:0 (30_encoding.md R123). -/
def cmdWord (arg : Word) (op : Byte) : CmdWord := arg ++ (0#24 ++ op)

/-- The word of an instruction. -/
def encode (i : Instr) : CmdWord := cmdWord i.arg i.opcode

/-- One row of the opcode table: a word belongs to it when its masked bits are the pattern. -/
structure OpcodeRow where
  mnemonic : String
  mask : CmdWord
  pattern : CmdWord
  deriving DecidableEq, Repr

/-- Every bit is fixed: an instruction without an argument. -/
def maskNoArg : CmdWord := 0xFFFFFFFFFFFFFFFF
/-- `Z` and `OP` are fixed: an instruction whose argument is free. -/
def maskArg : CmdWord := 0x00000000FFFFFFFF

/-- The software commands of the opcode table (30_encoding.md R127). -/
def softwareRows : List OpcodeRow :=
  [⟨"LAYOUT", maskNoArg, 0x01⟩, ⟨"RX_SETUP", maskNoArg, 0x02⟩, ⟨"RX_AVAIL", maskNoArg, 0x03⟩,
   ⟨"RX_RECV_NEXT", maskNoArg, 0x04⟩, ⟨"RX_MARK_DONE", maskNoArg, 0x05⟩, ⟨"TX_SETUP", maskNoArg, 0x06⟩,
   ⟨"TX_AVAIL", maskNoArg, 0x07⟩, ⟨"TX_GET_NEXT_BUFFER", maskArg, 0x08⟩, ⟨"TX_SEND_COMPLETE", maskNoArg, 0x09⟩,
   ⟨"DUMMY_SETUP", maskNoArg, 0x0A⟩, ⟨"DRV_INIT", maskNoArg, 0x0B⟩, ⟨"DRV_RECEIVE", maskNoArg, 0x0C⟩,
   ⟨"DRV_TRANSMIT", maskNoArg, 0x0D⟩, ⟨"RXH_BEGIN", maskNoArg, 0x0E⟩, ⟨"RXH_END", maskArg, 0x0F⟩,
   ⟨"TXH_BEGIN", maskArg, 0x10⟩, ⟨"TXH_END", maskArg, 0x11⟩, ⟨"HANDLE_DROP", 0xFFFFFFFEFFFFFFFF, 0x12⟩,
   ⟨"DRV_CAPS", maskNoArg, 0x13⟩, ⟨"DRV_CLASSIFY_IRQ", maskNoArg, 0x14⟩, ⟨"BUF_RD", 0x7FFF0000FFFFFFFF, 0x15⟩,
   ⟨"BUF_WR", 0x7F000000FFFFFFFF, 0x16⟩]

/-- The device and harness commands of the opcode table (30_encoding.md R127). -/
def deviceRows : List OpcodeRow :=
  [⟨"DEV_SET_RXQ_BASE", maskArg, 0x20⟩, ⟨"DEV_SET_TXQ_BASE", maskArg, 0x21⟩, ⟨"DEV_SET_TXQ1_BASE", maskArg, 0x22⟩,
   ⟨"DEV_KICK", maskArg, 0x23⟩, ⟨"DEV_CLEAR_IRQ", maskNoArg, 0x24⟩, ⟨"SIM_RX_SET_OWN", maskArg, 0xF0⟩,
   ⟨"SIM_TX_SET_OWN", maskArg, 0xF1⟩]

/-- The DMA steps of the opcode table (30_encoding.md R128). -/
def dmaRows : List OpcodeRow :=
  [⟨"DMA_RX_FRAME", maskNoArg, 0x80⟩, ⟨"DMA_RX_DROP", maskNoArg, 0x81⟩, ⟨"DMA_TX_FRAME", maskNoArg, 0x82⟩,
   ⟨"DMA_TX_STOP", maskNoArg, 0x83⟩]

/-- The opcode table, spec/opcode_table.json. -/
def opcodeTable : List OpcodeRow := softwareRows ++ deviceRows ++ dmaRows

/-- Whether a word belongs to a row. -/
def OpcodeRow.admits (r : OpcodeRow) (w : CmdWord) : Bool := w &&& r.mask == r.pattern

/-- The instruction the decoder reads from a table word of `nbits` bits with value `w`; the bits above `nbits`
are zero. -/
def decodeTableWord (nbits w : Nat) : Option Instr :=
  if nbits ≤ 64 ∧ w < 2 ^ nbits then (decode (BitVec.ofNat 64 w)).toOption else none

end Sys2Proof
end

