-- ==== Sys2Proof/Machine/State.lean ====
section
/-! DEFINITION. The state of the ring engine (10_state.md), the fault record (60_exceptions.md R331), the two ways
a step stops, and the state at reset (10_state.md R63). -/

namespace Sys2Proof.Machine

/-- The Region's bytes `M[0 .. size)` by region offset (00_scope.md R15): the written bytes, offsets strictly
rising. An unlisted offset is unwritten (10_state.md R31, R51; log 13). -/
abbrev Memory := List Host.Cell

/-- `st`: the completion status of the last software command (10_state.md R32). -/
inductive Status where
  | ok
  | notReady
  | rejected
  deriving DecidableEq, Repr, Inhabited

/-- Whether the setup of a ring or of the dummy descriptor has run (10_state.md R41). -/
inductive SetupState where
  | uninit
  | ready
  deriving DecidableEq, Repr, Inhabited

/-- The state of a handle (10_state.md R45): absent or consumed, obtained and unused, inside its operation. -/
inductive HandleState where
  | none
  | live
  | active
  deriving DecidableEq, Repr, Inhabited

/-- One sub-region of the layout record: its region offset and its (virtual, physical) base pair
(10_state.md R40). -/
structure SubRegion where
  off : Nat
  va : Nat
  pa : Nat
  deriving DecidableEq, Repr, Inhabited

/-- The layout record `L` (10_state.md R40). -/
structure Layout where
  /-- RX descriptor table -/
  rxd : SubRegion
  /-- RX buffer pool -/
  rxb : SubRegion
  /-- TX descriptor table -/
  txd : SubRegion
  /-- TX buffer pool -/
  txb : SubRegion
  /-- dummy TX descriptor -/
  dmy : SubRegion
  /-- `end`: the first offset past the dummy descriptor -/
  stop : Nat
  deriving DecidableEq, Repr, Inhabited

/-- A claimed TX slot and the length recorded in it (10_state.md R44). -/
structure Claim where
  slot : Nat
  len : Nat
  deriving DecidableEq, Repr, Inhabited

/-- The sub-region a `CFG_MISALIGNED` fault names (40_layout.md R154). -/
inductive SubName where
  | rxd
  | rxb
  | txd
  | txb
  | dmy
  deriving DecidableEq, Repr

/-- The base register a `DEV_BAD_BASE` fault names (45_dma_engine.md R290 to R292). -/
inductive BaseReg where
  | rxq
  | txq
  | txq1
  deriving DecidableEq, Repr

/-- What a `READ_UNWRITTEN` fault says was read (60_exceptions.md R331): a state variable of 10_state.md R31, or
the first unwritten byte of a Region access (the model's choice, log 26). -/
inductive Unwritten where
  | layout
  | rxCursor
  | txCursor
  | hwRxIdx
  | hwTxIdx
  | region (off : Nat)
  deriving DecidableEq, Repr

/-- A fault with the information it records, codes 1 to 24 in order (60_exceptions.md R331). Where the
information is "the command", it is the command or the sub-step that failed (log 11). -/
inductive FaultRecord where
  | cfgBadParam (n mtu : Nat)
  | cfgRegionTooSmall (stop size : Nat)
  | cfgMisaligned (sub : SubName)
  | cfgPaOverflow (paBase stop : Nat)
  | cfgVaOverflow (vaBase size : Nat)
  | notSetup (cmd : Instr)
  | setupTwice (cmd : Instr)
  | rxRecvNotReady (slot : Nat)
  | rxDoneNotReady (slot : Nat)
  | rxBorrowOpen (slot : Nat)
  | txSlotNotFree (slot : Nat)
  | txLenOversize (len : Nat)
  | txClaimPending (slot : Nat)
  | txNoClaim
  | handleViolation (cmd : Instr) (hrx htx : HandleState)
  | bufOutOfSlice (ring : Ring) (off : Nat)
  | txDmaBeforeCommit (slot : Nat)
  | dmaOffTable (ring : Ring) (index : Nat)
  | dmaAddrOutOfRegion (ring : Ring) (addr : Nat)
  | devBadBase (reg : BaseReg) (addr : Word)
  | kickBadAddr (addr : Word)
  | devNotProgrammed
  | illegalCommand (word : CmdWord)
  | readUnwritten (what : Unwritten)
  deriving DecidableEq, Repr

/-- The state of the machine: the spec's variables (10_state.md), then the configuration, then the model's own
three fields that carry the environment's choices (log 4, 18). -/
structure State where
  /-- result of the last command that returns a value (R32) -/
  res : Option (BitVec 64)
  /-- completion status of the last software command (R32) -/
  st : Option Status
  /-- index of the software agent's next command (R34) -/
  pc : Nat
  /-- the program `P[0 .. len)` (R34) -/
  program : List CmdWord
  /-- the Region's written bytes (R51) -/
  mem : Memory
  /-- the layout record `L` (R40) -/
  layout : Option Layout
  /-- whether `LAYOUT` has run (R40) -/
  layoutSet : Bool
  /-- whether `RX_SETUP` has run (R41) -/
  rxState : SetupState
  /-- whether `TX_SETUP` has run (R41) -/
  txState : SetupState
  /-- whether `DUMMY_SETUP` has run (R41) -/
  dmyState : SetupState
  /-- next RX slot software will inspect (R42) -/
  rxCursor : Option Nat
  /-- next TX slot software will inspect (R42) -/
  txCursor : Option Nat
  /-- the RX slot software is reading (R43) -/
  rxBorrow : Option Nat
  /-- the TX slot claimed and not yet committed (R44) -/
  txClaim : Option Claim
  /-- the receive handle (R45) -/
  hrx : HandleState
  /-- the transmit handle (R45) -/
  htx : HandleState
  /-- RX descriptor table base register (R38) -/
  rxqBase : Option Word
  /-- TX descriptor table base register (R38) -/
  txqBase : Option Word
  /-- secondary transmit-queue register (R38) -/
  txq1Base : Option Word
  /-- whether `rxq_base` is written (R38) -/
  rxqSet : Bool
  /-- whether `txq_base` is written (R38) -/
  txqSet : Bool
  /-- whether `txq1_base` is written (R38) -/
  txq1Set : Bool
  /-- next RX descriptor the DMA agent examines (R46) -/
  hwRxIdx : Option Nat
  /-- next TX descriptor the DMA agent examines (R46) -/
  hwTxIdx : Option Nat
  /-- whether the DMA agent may store frames (R47) -/
  rxEnabled : Bool
  /-- whether the transmit engine is active (R39) -/
  txRunning : Bool
  /-- receive completion flag (R36) -/
  rxComplete : Bool
  /-- transmit completion flag (R36) -/
  txComplete : Bool
  /-- sticky mark of a truncated transmit (R37) -/
  oversizeMarker : Bool
  /-- the frames sent so far, oldest first (R53) -/
  wireTx : List (List Byte)
  /-- the sticky fault record (R54) -/
  fault : Option FaultRecord
  /-- the configuration, changed by no command (R30; log 1) -/
  cfg : Config
  /-- the turns of the coming steps that are pinned, first one next (log 4) -/
  agenda : List Turn
  /-- how many steps have been taken: the key of the free values (log 18) -/
  turn : Nat
  /-- the draws pinned for the step being taken (log 7, 8) -/
  draw : Draw
  deriving DecidableEq, Repr

/-- Why a step stops. Raising one of the 24 faults of the spec is NOT one of these: it is a next state with the
record set (60_exceptions.md R330; log 3). -/
inductive Fault where
  /-- Raised by a step from a state whose fault record is set: "no agent has a further step" (10_state.md R54,
  60_exceptions.md R330). The stuck state of 93_implementation_defined.md I28. Safe. -/
  | halted (r : FaultRecord)
  /-- Raised by a word or byte access at a region offset the Region does not have (20_memory.md R81); no
  reachable state makes one (log 10). Safe: the model stops. -/
  | outsideRegion (off : Nat)
  deriving DecidableEq, Repr

/-- Why a step is refused. -/
inductive Refusal where
  /-- Raised by `exec` for an instruction without a meaning; safe. No instruction is left without one. -/
  | notModelled (mnemonic : String)
  deriving DecidableEq, Repr

/-- What a step of this machine gives. -/
abbrev Result := Host.Outcome State Fault Refusal

/-- The reset table (10_state.md R63, 70_reset_and_hazards.md R370) under a configuration. -/
def State.resetWith (c : Config) : State where
  res := none
  st := none
  pc := 0
  program := []
  mem := []
  layout := none
  layoutSet := false
  rxState := .uninit
  txState := .uninit
  dmyState := .uninit
  rxCursor := none
  txCursor := none
  rxBorrow := none
  txClaim := none
  hrx := .none
  htx := .none
  rxqBase := none
  txqBase := none
  txq1Base := none
  rxqSet := false
  txqSet := false
  txq1Set := false
  hwRxIdx := none
  hwTxIdx := none
  rxEnabled := false
  txRunning := false
  rxComplete := false
  txComplete := false
  oversizeMarker := false
  wireTx := []
  fault := none
  cfg := c
  agenda := []
  turn := 0
  draw := .free

/-- The machine right after reset, with the normative parameters (00_scope.md R12; log 1), no program loaded
(log 16) and no turn pinned (log 18). -/
def State.reset : State := State.resetWith Config.normative

end Sys2Proof.Machine
end

