-- ==== Sys2Proof/Machine/Flags.lean ====
section
/-! DEFINITION. The fields of descriptor words, the words each rule writes, and the interrupt line
(30_encoding.md R112 to R121, 45_dma_engine.md R298). -/

namespace Sys2Proof.Machine

/-- `RX_OWN` (30_encoding.md R112). -/
def RX_OWN : Word := 0x00000001
/-- `RX_WRAP` (30_encoding.md R112). -/
def RX_WRAP : Word := 0x00000002
/-- `RX_ADDR_MASK` (30_encoding.md R112). -/
def RX_ADDR_MASK : Word := 0xFFFFFFFC
/-- `TX_USED` (30_encoding.md R120). -/
def TX_USED : Word := 0x80000000
/-- `TX_WRAP` (30_encoding.md R119). -/
def TX_WRAP : Word := 0x40000000
/-- `TX_STAT_MASK` (30_encoding.md R119). -/
def TX_STAT_MASK : Word := 0x3FFF0000
/-- `TX_LAST` (30_encoding.md R118). -/
def TX_LAST : Word := 0x00008000
/-- `TX_RSVD` (30_encoding.md R118). -/
def TX_RSVD : Word := 0x00004000
/-- `TX_LEN_MASK` (30_encoding.md R117). -/
def TX_LEN_MASK : Word := 0x00003FFF

/-- `OWN`, bit 0 of an RX word: 1 = `SW_OWNED`, a frame is ready (30_encoding.md R112, R114). -/
def rxOwn (w : Word) : Bool := w.getLsbD 0
/-- `WRAP`, bit 1 of an RX word: end of ring (30_encoding.md R112, R115). -/
def rxWrap (w : Word) : Bool := w.getLsbD 1
/-- The buffer address an RX word names (30_encoding.md R113). -/
def rxAddr (w : Word) : Word := w &&& RX_ADDR_MASK
/-- The word `RX_SETUP` writes for a buffer at `pa` (41_rx_ring.md R170): `OWN` = 0. -/
def rxSetupWord (pa : Word) (last : Bool) : Word := (pa &&& RX_ADDR_MASK) ||| (if last then RX_WRAP else 0)
/-- The word `RX_MARK_DONE` writes: `OWN` cleared (41_rx_ring.md R174). -/
def rxReleased (w : Word) : Word := w &&& ~~~RX_OWN
/-- The word `DMA_RX_FRAME` writes: `OWN` set (45_dma_engine.md R303). -/
def rxFilled (w : Word) : Word := w ||| RX_OWN

/-- `USED`, bit 31 of a TX status word: 1 = `SW_OWNED` (30_encoding.md R120). -/
def txUsed (w : Word) : Bool := w.getLsbD 31
/-- `WRAP`, bit 30 of a TX status word (30_encoding.md R119). -/
def txWrap (w : Word) : Bool := w.getLsbD 30
/-- `STAT`, bits 29:16 of a TX status word (30_encoding.md R119). -/
def txStat (w : Word) : BitVec 14 := w.extractLsb' 16 14
/-- `LAST`, bit 15 of a TX status word: frame end (30_encoding.md R118). -/
def txLast (w : Word) : Bool := w.getLsbD 15
/-- Bit 14 of a TX status word, reserved (30_encoding.md R118). -/
def txRsvd (w : Word) : Bool := w.getLsbD 14
/-- `LEN`, bits 13:0 of a TX status word (30_encoding.md R117). -/
def txLen (w : Word) : Nat := (w.extractLsb' 0 14).toNat
/-- The status word `TX_SETUP` writes (42_tx_ring.md R200). -/
def txSetupStatus (last : Bool) : Word := TX_USED ||| (if last then TX_WRAP else 0)
/-- The status word `TX_GET_NEXT_BUFFER len` writes: `WRAP` kept, `LAST` and `LEN` set, the rest 0
(42_tx_ring.md R203). -/
def txClaimed (w : Word) (len : Nat) : Word := (w &&& TX_WRAP) ||| TX_LAST ||| BitVec.ofNat 32 len
/-- The status word `DMA_TX_FRAME` writes: `USED` set, `STAT` replaced, the rest kept (45_dma_engine.md R306). -/
def txSent (w : Word) (stat : BitVec 14) : Word :=
  (w &&& ~~~TX_STAT_MASK) ||| TX_USED ||| (stat.setWidth 32 <<< 16)
/-- The word `SIM_TX_SET_OWN` writes: `USED` set (45_dma_engine.md R310). -/
def txReturned (w : Word) : Word := w ||| TX_USED
/-- The status word of the dummy descriptor (43_dummy_tx.md R230). -/
def dummyStatus : Word := TX_USED ||| TX_WRAP

/-- The interrupt line, level-sensitive, without enable or mask (45_dma_engine.md R298). -/
def State.irq (s : State) : Bool := s.rxComplete || s.txComplete

/-- The capabilities word: MTU, burst size 1, medium Ethernet, no checksum offload (44_driver.md R255). -/
def capsWord (mtu : Nat) : BitVec 64 := BitVec.ofNat 64 (mtu ||| (1 <<< 16) ||| (1 <<< 24))

/-- The classification of the completion flags, receive first (44_driver.md R254). -/
def irqClass (rxComplete txComplete : Bool) : BitVec 64 :=
  if rxComplete then 1 else if txComplete then 2 else 0

end Sys2Proof.Machine
end

