-- ==== Sys2Proof/Machine/Memory.lean ====
section
/-! DEFINITION. The Region as data: one read and one store, byte order, and the word built from them
(00_scope.md R15, 20_memory.md R86, R87). -/

namespace Sys2Proof.Machine

/-- The byte at a region offset; none where no rule has written it (10_state.md R31). -/
def Memory.read : Memory → Nat → Option Byte
  | [], _ => none
  | (k, b) :: m, a => if k = a then some b else Memory.read m a

/-- The bytes `bs` as cells at consecutive offsets from `off`. -/
def Memory.cells : Nat → List Byte → Memory
  | _, [] => []
  | off, b :: bs => (off, b) :: Memory.cells (off + 1) bs

/-- `M` with `bs` stored at offsets `off ..`: the cells below, the stored ones, the cells above. -/
def Memory.store (m : Memory) (off : Nat) (bs : List Byte) : Memory :=
  m.filter (fun c => decide (c.1 < off)) ++
    (Memory.cells off bs ++ m.filter (fun c => decide (off + bs.length ≤ c.1)))

/-- The canonical form: offsets strictly rising. An unlisted offset has no value, so no cell can equal it. -/
abbrev Memory.wf (m : Memory) : Prop := m.Pairwise (fun a b => a.1 < b.1)

/-- The four bytes of a word, least significant first (20_memory.md R86). -/
def wordBytes (w : Word) : List Byte :=
  [w.extractLsb' 0 8, w.extractLsb' 8 8, w.extractLsb' 16 8, w.extractLsb' 24 8]

/-- The word of four bytes, least significant first (20_memory.md R86). -/
def wordOfBytes (b0 b1 b2 b3 : Byte) : Word := b3 ++ (b2 ++ (b1 ++ b0))

/-- `MemRead(off, 4)` (00_scope.md R15); none where a byte of it is unwritten. -/
def Memory.readWord (m : Memory) (off : Nat) : Option Word :=
  match m.read off, m.read (off + 1), m.read (off + 2), m.read (off + 3) with
  | some b0, some b1, some b2, some b3 => some (wordOfBytes b0 b1 b2 b3)
  | _, _, _, _ => none

/-- The first unwritten offset of the word at `off`, for the information of a `READ_UNWRITTEN` fault. DESIGN CHOICE:
60_exceptions.md R331 says "what was read" and does not say whether a word read names the word or a byte of it
(log 26). -/
def Memory.firstUnwritten (m : Memory) (off : Nat) : Nat :=
  if m.read off = none then off
  else if m.read (off + 1) = none then off + 1
  else if m.read (off + 2) = none then off + 2
  else off + 3

/-- `MemWrite(off, 4, w)` (00_scope.md R15). -/
def Memory.writeWord (m : Memory) (off : Nat) (w : Word) : Memory := m.store off (wordBytes w)

end Sys2Proof.Machine
end

