-- ==== Sys2Proof/Machine/Operands.lean ====
section
/-! DEFINITION. Operand forms: how an argument becomes a number, an address or a region offset
(30_encoding.md R124, R125; 00_scope.md R17; 20_memory.md R81). -/

namespace Sys2Proof.Machine

/-- `zext_64` of a 32-bit argument (30_encoding.md R125). -/
def zext64 (w : Word) : BitVec 64 := w.setWidth 64

/-- A length argument as a number (30_encoding.md R124, R125). -/
def lenOf (w : Word) : Nat := w.toNat

/-- `rxd(i)`: the offset of RX descriptor `i` (00_scope.md R17). -/
def Layout.rxdOff (L : Layout) (i : Nat) : Nat := L.rxd.off + Config.RXD * i
/-- `txd0(i)`: the offset of TX descriptor `i`'s address word (00_scope.md R17). -/
def Layout.txd0Off (L : Layout) (i : Nat) : Nat := L.txd.off + Config.TXD * i
/-- `txd1(i)`: the offset of TX descriptor `i`'s status word (00_scope.md R17). -/
def Layout.txd1Off (L : Layout) (i : Nat) : Nat := L.txd.off + Config.TXD * i + 4
/-- `rxb(i)`: the offset of RX buffer slot `i` (00_scope.md R17). -/
def Layout.rxbOff (L : Layout) (mtu i : Nat) : Nat := L.rxb.off + mtu * i
/-- `txb(i)`: the offset of TX buffer slot `i` (00_scope.md R17). -/
def Layout.txbOff (L : Layout) (mtu i : Nat) : Nat := L.txb.off + mtu * i
/-- `dmy0`: the offset of the dummy descriptor's address word (00_scope.md R17). -/
def Layout.dmy0Off (L : Layout) : Nat := L.dmy.off
/-- `dmy1`: the offset of the dummy descriptor's status word (00_scope.md R17). -/
def Layout.dmy1Off (L : Layout) : Nat := L.dmy.off + 4

/-- The physical address of RX buffer slot `i` (40_layout.md R160). -/
def Layout.rxbPa (L : Layout) (mtu i : Nat) : Nat := L.rxb.pa + i * mtu
/-- The virtual address of RX buffer slot `i` (40_layout.md R160). -/
def Layout.rxbVa (L : Layout) (mtu i : Nat) : Nat := L.rxb.va + i * mtu
/-- The physical address of TX buffer slot `i` (40_layout.md R160). -/
def Layout.txbPa (L : Layout) (mtu i : Nat) : Nat := L.txb.pa + i * mtu
/-- The virtual address of TX buffer slot `i` (40_layout.md R160). -/
def Layout.txbVa (L : Layout) (mtu i : Nat) : Nat := L.txb.va + i * mtu
/-- The physical address of TX descriptor `i` (42_tx_ring.md R205). -/
def Layout.txdPa (L : Layout) (i : Nat) : Nat := L.txd.pa + Config.TXD * i

/-- A physical address as a register or descriptor word holds it. -/
def paWord (a : Nat) : Word := BitVec.ofNat 32 a

/-- A virtual address as `res` holds it. -/
def vaWord (a : Nat) : BitVec 64 := BitVec.ofNat 64 a

/-- The region offset a virtual address maps to; none outside the Region (20_memory.md R81). -/
def offOfVa? (c : Config) (va : Nat) : Option Nat :=
  if c.vaBase ≤ va ∧ va < c.vaBase + c.size then some (va - c.vaBase) else none

/-- The region offset a physical address maps to; none outside the Region (20_memory.md R81). -/
def offOfPa? (c : Config) (pa : Nat) : Option Nat :=
  if c.paBase ≤ pa ∧ pa < c.paBase + c.size then some (pa - c.paBase) else none

/-- The region offset of a DMA buffer access of `n` bytes at physical address `a`; none where the range is not
inside the Region (45_dma_engine.md R295, 20_memory.md R83). -/
def dmaRange? (c : Config) (a n : Nat) : Option Nat :=
  if c.paBase ≤ a ∧ a + n ≤ c.paBase + c.size then some (a - c.paBase) else none

/-- Whether `pa` is `L.txd_pa + 8*i` for some `i < n` (45_dma_engine.md R293). -/
def Layout.isTxDescriptor (L : Layout) (n : Nat) (pa : Word) : Bool :=
  decide (L.txd.pa ≤ pa.toNat ∧ (pa.toNat - L.txd.pa) % Config.TXD = 0 ∧ (pa.toNat - L.txd.pa) / Config.TXD < n)

/-- The offset of buffer slot `i` of a ring (00_scope.md R17, 44_driver.md R252). -/
def Layout.slotOff (L : Layout) (ring : Ring) (mtu i : Nat) : Nat :=
  match ring with
  | .rx => L.rxbOff mtu i
  | .tx => L.txbOff mtu i

/-- The slot whose slice admits byte `off`: an RX slice has `MTU` bytes, a TX slice the claimed length; none
where no slice is open or `off` is past its end (41_rx_ring.md R173, 42_tx_ring.md R204, 44_driver.md R252). -/
def sliceSlot? (ring : Ring) (off mtu : Nat) (borrow : Option Nat) (claim : Option Claim) : Option Nat :=
  match ring with
  | .rx => borrow.filter fun _ => decide (off < mtu)
  | .tx => (claim.filter fun k => decide (off < k.len)).map Claim.slot

/-- The position after `i` on a ring of `n` slots, for a software cursor (10_state.md R42). -/
def cursorNext (n i : Nat) : Nat := (i + 1) % n

/-- The DMA agent's position after `i`, whose end-of-ring bit is `e`; none past the table (45_dma_engine.md R296). -/
def dmaNext? (n i : Nat) (e : Bool) : Option Nat :=
  if e then some 0 else if i + 1 < n then some (i + 1) else none

end Sys2Proof.Machine
end

