-- ==== Sys2Proof/Machine/Ops.lean ====
section
/-! DEFINITION. The shared operations: checks, raising a fault, issuing a command and taking a DMA step, and
every access to memory and to the state's variables (00_scope.md R15, R16, R18; 60_exceptions.md R330). -/

namespace Sys2Proof.Machine

/-- How a rule ends without its effect: it raises one of the spec's faults, or the model stops. -/
inductive Stop where
  | raise (r : FaultRecord)
  | halt (f : Fault)
  deriving DecidableEq, Repr

/-- The outcome of a rule's pseudocode: what it computes, or how it ends. Nothing it wrote survives a stop
(00_scope.md R16). -/
abbrev Attempt := Except Stop

/-- `require P else raise F` (00_scope.md R16). -/
def require (p : Prop) [Decidable p] (r : FaultRecord) : Attempt Unit :=
  if p then .ok () else .error (.raise r)

/-- The value of a state variable that may be unwritten (10_state.md R31). -/
def known {α : Type} (v : Option α) (what : Unwritten) : Attempt α :=
  match v with
  | some x => .ok x
  | none => .error (.raise (.readUnwritten what))

/-- TAKING A FAULT: the record is set, `pc` stays at the faulting command, nothing else changes
(00_scope.md R16, 60_exceptions.md R330, R335). There is no return from it (60_exceptions.md R343). -/
def State.raiseFault (s : State) (r : FaultRecord) : State := { s with fault := some r }

/-- `pc` past a command that did not fault (10_state.md R34). -/
def State.advancePc (s : State) : State := { s with pc := s.pc + 1 }

/-- The outcome of a rule run from `s`: its effect, the fault it raises, or the model's stop. No agent has a
step once the fault record is set (10_state.md R54). -/
def settle (s : State) (a : Attempt State) (done : State → State) : Result :=
  match s.fault with
  | some r => .fault (.halted r)
  | none =>
    match a with
    | .ok t => .next (done t)
    | .error (.raise r) => .next (s.raiseFault r)
    | .error (.halt f) => .fault f

/-- One command of the software agent: its effect and `pc + 1`, or its fault (10_state.md R34, 00_scope.md R18). -/
def command (s : State) (body : State → Attempt State) : Result := settle s (body s) State.advancePc

/-- One step of the DMA agent: its effect or its fault; `pc` is the software agent's (45_dma_engine.md R294). -/
def dmaStep (s : State) (body : State → Attempt State) : Result := settle s (body s) id

/-- `R241`: a mutating command is refused while a handle is held, before any other check. -/
def requireNoHandle (i : Instr) (s : State) : Attempt Unit :=
  require (s.hrx = .none ∧ s.htx = .none) (.handleViolation i s.hrx s.htx)

/-- A mutating command's rule with its handle check before it (44_driver.md R241). -/
def exclusive (i : Instr) (op : State → Attempt State) (s : State) : Attempt State := do
  requireNoHandle i s
  op s

/-- The layout record, read by every ring rule (10_state.md R40). -/
def State.layoutOf (s : State) : Attempt Layout := known s.layout .layout

/-- Software's `MemRead(off, 4)` (00_scope.md R15, 20_memory.md R85). -/
def State.loadWord (s : State) (off : Nat) : Attempt Word :=
  if off + 4 ≤ s.cfg.size then known (s.mem.readWord off) (.region (s.mem.firstUnwritten off))
  else .error (.halt (.outsideRegion off))

/-- Software's `MemRead(off, 1)` (00_scope.md R15, 20_memory.md R85). -/
def State.loadByte (s : State) (off : Nat) : Attempt Byte :=
  if off + 1 ≤ s.cfg.size then known (s.mem.read off) (.region off)
  else .error (.halt (.outsideRegion off))

/-- `MemWrite` of consecutive bytes (00_scope.md R15). -/
def State.storeBytes (s : State) (off : Nat) (bs : List Byte) : Attempt State :=
  if off + bs.length ≤ s.cfg.size then .ok { s with mem := s.mem.store off bs }
  else .error (.halt (.outsideRegion off))

/-- `MemWrite(off, 4, w)` (00_scope.md R15, 20_memory.md R89). -/
def State.storeWord (s : State) (off : Nat) (w : Word) : Attempt State := s.storeBytes off (wordBytes w)

/-- What the DMA agent reads of the byte at `off`: a draw where it is unwritten (20_memory.md R85). -/
def State.dmaByte (s : State) (off : Nat) : Byte := (s.mem.read off).getD (Config.unwrittenByte s.turn off)

/-- The DMA agent's `MemRead(off, 4)` of a descriptor word (00_scope.md R15, 20_memory.md R85). -/
def State.dmaWord (s : State) (off : Nat) : Attempt Word :=
  if off + 4 ≤ s.cfg.size then
    .ok (wordOfBytes (s.dmaByte off) (s.dmaByte (off + 1)) (s.dmaByte (off + 2)) (s.dmaByte (off + 3)))
  else .error (.halt (.outsideRegion off))

/-- Byte `j` of the data drawn for this step: pinned by the environment, else free (45_dma_engine.md R303; log 7). -/
def State.dataDraw (s : State) (j : Nat) : Byte := (s.draw.data[j]?).getD (Config.frameByte s.turn j)

/-- The status bits drawn for this step: pinned by the environment, else free (45_dma_engine.md R306; log 8). -/
def State.statDraw (s : State) : BitVec 14 := s.draw.stat.getD (Config.statDraw s.turn)

/-- `res <- v` (10_state.md R32). -/
def State.setRes (s : State) (v : BitVec 64) : State := { s with res := some v }

/-- `st <- v` (10_state.md R32). -/
def State.setSt (s : State) (v : Status) : State := { s with st := some v }

/-- Whether the driver is constructed (44_driver.md R240). -/
def State.constructed (s : State) : Bool :=
  s.rxState == .ready && s.txState == .ready && s.dmyState == .ready && s.rxqSet && s.txqSet && s.txq1Set

end Sys2Proof.Machine
end

