-- ==== Sys2Proof/Machine/Dma.lean ====
section
/-! DEFINITION. The DMA agent's four steps (45_dma_engine.md R294 to R307). A step whose guard does not hold is
not enabled: as a turn it leaves the state as it is (log 5). -/

namespace Sys2Proof.Machine

/-- The DMA address check (45_dma_engine.md R295): the region offset of a buffer of `n` bytes at `a`. -/
def dmaBuffer (ring : Ring) (a n : Nat) (s : State) : Attempt Nat :=
  match dmaRange? s.cfg a n with
  | some off => .ok off
  | none => .error (.raise (.dmaAddrOutOfRegion ring a))

/-- `next(i, e)` (45_dma_engine.md R296). -/
def dmaAdvance (ring : Ring) (i : Nat) (e : Bool) (s : State) : Attempt Nat :=
  match dmaNext? s.cfg.n i e with
  | some j => .ok j
  | none => .error (.raise (.dmaOffTable ring i))

/-- The RX head, the layout and the head's descriptor word (45_dma_engine.md R301, R302; log 15). -/
def rxHead (s : State) : Attempt (Nat × Layout × Word) := do
  let h ← known s.hwRxIdx .hwRxIdx
  let L ← s.layoutOf
  let w ← s.dmaWord (L.rxdOff h)
  .ok (h, L, w)

/-- The TX tail, the layout and the tail's status word (45_dma_engine.md R304; log 15). -/
def txTail (s : State) : Attempt (Nat × Layout × Word) := do
  let t ← known s.hwTxIdx .hwTxIdx
  let L ← s.layoutOf
  let w ← s.dmaWord (L.txd1Off t)
  .ok (t, L, w)

/-- The `MTU` bytes drawn for a stored frame (45_dma_engine.md R303). -/
def State.frameDraw (s : State) : List Byte := (List.range s.cfg.mtu).map s.dataDraw

/-- `DMA_RX_FRAME` where its guard holds (45_dma_engine.md R302, R303). -/
def dmaStoreFrame (h : Nat) (L : Layout) (w : Word) (s : State) : Attempt State := do
  let off ← dmaBuffer .rx (rxAddr w).toNat s.cfg.mtu s
  let j ← dmaAdvance .rx h (rxWrap w) s
  let s ← s.storeBytes off s.frameDraw
  let s ← s.storeWord (L.rxdOff h) (rxFilled w)
  .ok { s with hwRxIdx := some j, rxComplete := true }

/-- `DMA_RX_FRAME` (45_dma_engine.md R302, R303): enabled when reception is and the head slot is `HW_OWNED`. -/
def dmaRxFrameOp (s : State) : Attempt State :=
  if s.rxEnabled then do
    let (h, L, w) ← rxHead s
    if rxOwn w then .ok s else dmaStoreFrame h L w s
  else .ok s

/-- `DMA_RX_FRAME` as a turn (45_dma_engine.md R294). -/
def execDmaRxFrame (s : State) : Result := dmaStep s dmaRxFrameOp

/-- `DMA_RX_DROP` (45_dma_engine.md R301): enabled when reception is and the head slot is `SW_OWNED`; the frame
is lost and nothing changes. -/
def dmaRxDropOp (s : State) : Attempt State :=
  if s.rxEnabled then do
    let _ ← rxHead s
    .ok s
  else .ok s

/-- `DMA_RX_DROP` as a turn (45_dma_engine.md R294). -/
def execDmaRxDrop (s : State) : Result := dmaStep s dmaRxDropOp

/-- The frame of `n` bytes the DMA agent reads from region offset `off` (45_dma_engine.md R306, R297). -/
def State.frameAt (s : State) (off n : Nat) : List Byte := (List.range n).map fun j => s.dmaByte (off + j)

/-- The DMA agent has not reached a claimed slot (45_dma_engine.md R305). -/
def requireCommitted (t : Nat) (s : State) : Attempt Unit :=
  require (s.txClaim.map Claim.slot ≠ some t) (.txDmaBeforeCommit t)

/-- `DMA_TX_FRAME` where its guard holds (45_dma_engine.md R305, R306). -/
def dmaSendFrame (t : Nat) (L : Layout) (w : Word) (s : State) : Attempt State := do
  requireCommitted t s
  let a ← s.dmaWord (L.txd0Off t)
  let off ← dmaBuffer .tx a.toNat (txLen w) s
  let j ← dmaAdvance .tx t (txWrap w) s
  let frame := s.frameAt off (txLen w)
  let s ← s.storeWord (L.txd1Off t) (txSent w s.statDraw)
  .ok { s with wireTx := s.wireTx ++ [frame], hwTxIdx := some j, txComplete := true }

/-- `DMA_TX_FRAME` (45_dma_engine.md R305, R306): enabled when the engine runs and the tail slot is `HW_OWNED`. -/
def dmaTxFrameOp (s : State) : Attempt State :=
  if s.txRunning then do
    let (t, L, w) ← txTail s
    if txUsed w then .ok s else dmaSendFrame t L w s
  else .ok s

/-- `DMA_TX_FRAME` as a turn (45_dma_engine.md R294). -/
def execDmaTxFrame (s : State) : Result := dmaStep s dmaTxFrameOp

/-- `DMA_TX_STOP` (45_dma_engine.md R307): enabled when the engine runs and the tail slot is `SW_OWNED`. -/
def dmaTxStopOp (s : State) : Attempt State :=
  if s.txRunning then do
    let (_, _, w) ← txTail s
    .ok (if txUsed w then { s with txRunning := false } else s)
  else .ok s

/-- `DMA_TX_STOP` as a turn (45_dma_engine.md R294). -/
def execDmaTxStop (s : State) : Result := dmaStep s dmaTxStopOp

end Sys2Proof.Machine
end

