-- ==== Sys2Proof/Machine/Allocator.lean ====
section
/-! DEFINITION. The layout allocator: `LAYOUT` (40_layout.md). -/

namespace Sys2Proof.Machine

/-- The parameter bounds of 00_scope.md R13. -/
abbrev paramsLegal (c : Config) : Prop := 1 ≤ c.n ∧ c.mtu % 4 = 0 ∧ 4 ≤ c.mtu ∧ c.mtu ≤ 16380

/-- The sub-region at an offset: both base addresses name the same bytes (10_state.md R40). -/
def subRegionAt (c : Config) (off : Nat) : SubRegion where
  off := off
  va := c.vaBase + off
  pa := c.paBase + off

/-- The layout record of a configuration: five sub-regions back to back (40_layout.md R151, R152). -/
def layoutFor (c : Config) : Layout where
  rxd := subRegionAt c 0
  rxb := subRegionAt c (Config.RXD * c.n)
  txd := subRegionAt c (Config.RXD * c.n + c.mtu * c.n)
  txb := subRegionAt c (Config.RXD * c.n + c.mtu * c.n + Config.TXD * c.n)
  dmy := subRegionAt c (Config.RXD * c.n + c.mtu * c.n + Config.TXD * c.n + c.mtu * c.n)
  stop := Config.RXD * c.n + c.mtu * c.n + Config.TXD * c.n + c.mtu * c.n + Config.TXD

/-- Whether a sub-region's offset and both its base addresses are multiples of `a` (40_layout.md R154;
70_reset_and_hazards.md R373: a table at an offset that is not "fails for every base"). DESIGN CHOICE: the pseudocode
of R151 tests the addresses only (log 25). -/
def SubRegion.alignedTo (r : SubRegion) (a : Nat) : Bool := decide (r.off % a = 0 ∧ r.pa % a = 0 ∧ r.va % a = 0)

/-- The first misaligned sub-region in the order `rxd`, `rxb`, `txd`, `txb`, `dmy` (40_layout.md R154). Under
`TXD_ALIGN = 8` no odd `N` passes (70_reset_and_hazards.md R373; log 25). -/
def Layout.firstMisaligned (L : Layout) : Option SubName :=
  if !L.rxd.alignedTo Config.RXD_ALIGN then some .rxd
  else if !L.rxb.alignedTo Config.BUF_ALIGN then some .rxb
  else if !L.txd.alignedTo Config.TXD_ALIGN then some .txd
  else if !L.txb.alignedTo Config.BUF_ALIGN then some .txb
  else if !L.dmy.alignedTo Config.TXD_ALIGN then some .dmy
  else none

/-- No sub-region is misaligned, else the fault that names the first (40_layout.md R154). -/
def requireAligned (L : Layout) : Attempt Unit :=
  match L.firstMisaligned with
  | some x => .error (.raise (.cfgMisaligned x))
  | none => .ok ()

/-- Whether `LAYOUT` accepts a configuration (40_layout.md R151, checks 2 to 6). -/
abbrev layoutAccepts (c : Config) : Prop :=
  paramsLegal c ∧ (layoutFor c).stop ≤ c.size ∧ (layoutFor c).firstMisaligned = none ∧
    c.paBase + (layoutFor c).stop ≤ 2 ^ Config.PA_W ∧ c.vaBase + c.size ≤ 2 ^ Config.VA_W

/-- `LAYOUT` (40_layout.md R151): the six checks in order, then the record. -/
def layoutOp (s : State) : Attempt State := do
  require (s.layoutSet = false) (.setupTwice .layout)
  require (paramsLegal s.cfg) (.cfgBadParam s.cfg.n s.cfg.mtu)
  let L := layoutFor s.cfg
  require (L.stop ≤ s.cfg.size) (.cfgRegionTooSmall L.stop s.cfg.size)
  requireAligned L
  require (s.cfg.paBase + L.stop ≤ 2 ^ Config.PA_W) (.cfgPaOverflow s.cfg.paBase L.stop)
  require (s.cfg.vaBase + s.cfg.size ≤ 2 ^ Config.VA_W) (.cfgVaOverflow s.cfg.vaBase s.cfg.size)
  .ok { s with layout := some L, layoutSet := true, st := some .ok }

/-- `LAYOUT` as an issued command (40_layout.md R151, 44_driver.md R241). -/
def execLayout (s : State) : Result :=
  command s (exclusive .layout layoutOp)

end Sys2Proof.Machine
end

