-- ==== Sys2Proof/Machine/Device.lean ====
section
/-! DEFINITION. The device-handle commands (45_dma_engine.md R290 to R293, R299) and the test harness
(R309, R310). They write neither `res` nor `st` (10_state.md R32). -/

namespace Sys2Proof.Machine

/-- `DEV_SET_RXQ_BASE pa` without its handle check (45_dma_engine.md R290). -/
def devSetRxqBaseOp (pa : Word) (s : State) : Attempt State := do
  require (s.rxqSet = false) (.setupTwice (.devSetRxqBase pa))
  require (s.rxState = .ready) (.notSetup (.devSetRxqBase pa))
  let L ← s.layoutOf
  require (pa.toNat = L.rxd.pa) (.devBadBase .rxq pa)
  .ok { s with rxqBase := some pa, rxqSet := true, hwRxIdx := some 0, rxEnabled := true }

/-- `DEV_SET_RXQ_BASE pa` as an issued command (45_dma_engine.md R290, 44_driver.md R241). -/
def execDevSetRxqBase (pa : Word) (s : State) : Result :=
  command s (exclusive (.devSetRxqBase pa) (devSetRxqBaseOp pa))

/-- `DEV_SET_TXQ_BASE pa` without its handle check (45_dma_engine.md R291). -/
def devSetTxqBaseOp (pa : Word) (s : State) : Attempt State := do
  require (s.txqSet = false) (.setupTwice (.devSetTxqBase pa))
  require (s.txState = .ready) (.notSetup (.devSetTxqBase pa))
  let L ← s.layoutOf
  require (pa.toNat = L.txd.pa) (.devBadBase .txq pa)
  .ok { s with txqBase := some pa, txqSet := true, hwTxIdx := some 0, txRunning := false }

/-- `DEV_SET_TXQ_BASE pa` as an issued command (45_dma_engine.md R291, 44_driver.md R241). -/
def execDevSetTxqBase (pa : Word) (s : State) : Result :=
  command s (exclusive (.devSetTxqBase pa) (devSetTxqBaseOp pa))

/-- `DEV_SET_TXQ1_BASE pa` without its handle check (45_dma_engine.md R292). -/
def devSetTxq1BaseOp (pa : Word) (s : State) : Attempt State := do
  require (s.txq1Set = false) (.setupTwice (.devSetTxq1Base pa))
  require (s.dmyState = .ready) (.notSetup (.devSetTxq1Base pa))
  let L ← s.layoutOf
  require (pa.toNat = L.dmy.pa) (.devBadBase .txq1 pa)
  .ok { s with txq1Base := some pa, txq1Set := true }

/-- `DEV_SET_TXQ1_BASE pa` as an issued command (45_dma_engine.md R292, 44_driver.md R241). -/
def execDevSetTxq1Base (pa : Word) (s : State) : Result :=
  command s (exclusive (.devSetTxq1Base pa) (devSetTxq1BaseOp pa))

/-- `DEV_KICK pa` (45_dma_engine.md R293): the transmitter runs on from its own position. -/
def devKickOp (pa : Word) (s : State) : Attempt State := do
  require (s.txqSet = true) .devNotProgrammed
  let L ← s.layoutOf
  require (L.isTxDescriptor s.cfg.n pa = true) (.kickBadAddr pa)
  .ok { s with txRunning := true }

/-- `DEV_KICK pa` as an issued command; allowed while a handle is held (45_dma_engine.md R293). -/
def execDevKick (pa : Word) (s : State) : Result := command s (devKickOp pa)

/-- `DEV_CLEAR_IRQ` (45_dma_engine.md R299). -/
def devClearIrqOp (s : State) : Attempt State := .ok { s with rxComplete := false, txComplete := false }

/-- `DEV_CLEAR_IRQ` as an issued command; allowed at any time (45_dma_engine.md R299). -/
def execDevClearIrq (s : State) : Result := command s devClearIrqOp

/-- The harness commands are legal with `HARNESS = 1` and `idx < N` only; else the word is illegal
(45_dma_engine.md R309, R310; 30_encoding.md R126). -/
def requireHarness (i : Instr) (s : State) : Attempt Unit :=
  require (i.wellFormed s.cfg = true) (.illegalCommand (encode i))

/-- `SIM_RX_SET_OWN idx` (45_dma_engine.md R309). -/
def simRxSetOwnOp (idx : Word) (s : State) : Attempt State := do
  requireHarness (.simRxSetOwn idx) s
  require (s.rxState = .ready) (.notSetup (.simRxSetOwn idx))
  let L ← s.layoutOf
  let w ← s.loadWord (L.rxdOff idx.toNat)
  s.storeWord (L.rxdOff idx.toNat) (rxFilled w)

/-- `SIM_RX_SET_OWN idx` as an issued command (45_dma_engine.md R309). -/
def execSimRxSetOwn (idx : Word) (s : State) : Result := command s (simRxSetOwnOp idx)

/-- `SIM_TX_SET_OWN idx` (45_dma_engine.md R310). -/
def simTxSetOwnOp (idx : Word) (s : State) : Attempt State := do
  requireHarness (.simTxSetOwn idx) s
  require (s.txState = .ready) (.notSetup (.simTxSetOwn idx))
  let L ← s.layoutOf
  let w ← s.loadWord (L.txd1Off idx.toNat)
  s.storeWord (L.txd1Off idx.toNat) (txReturned w)

/-- `SIM_TX_SET_OWN idx` as an issued command (45_dma_engine.md R310). -/
def execSimTxSetOwn (idx : Word) (s : State) : Result := command s (simTxSetOwnOp idx)

end Sys2Proof.Machine
end

