-- ==== Sys2Proof/Machine/RxRing.lean ====
section
/-! DEFINITION. The receive ring, software side: `RX_SETUP`, `RX_AVAIL`, `RX_RECV_NEXT`, `RX_MARK_DONE`
(41_rx_ring.md). -/

namespace Sys2Proof.Machine

/-- The word `RX_SETUP` writes for slot `i` (41_rx_ring.md R170). -/
def rxEntry (c : Config) (L : Layout) (i : Nat) : Word :=
  rxSetupWord (paWord (L.rxbPa c.mtu i)) (i + 1 == c.n)

/-- The RX table after setup, word after word (41_rx_ring.md R170). -/
def rxTable (c : Config) (L : Layout) : List Byte :=
  (List.range c.n).flatMap fun i => wordBytes (rxEntry c L i)

/-- `RX_SETUP` (41_rx_ring.md R170): the words of slots 0 to `N-1` stand at `rxd(0) ..`, one after another. -/
def rxSetupOp (s : State) : Attempt State := do
  require (s.layoutSet = true) (.notSetup .rxSetup)
  require (s.rxState = .uninit) (.setupTwice .rxSetup)
  let L ← s.layoutOf
  let s ← s.storeBytes (L.rxdOff 0) (rxTable s.cfg L)
  .ok { s with rxCursor := some 0, rxBorrow := none, rxState := .ready, st := some .ok }

/-- `RX_SETUP` as an issued command (41_rx_ring.md R170, 44_driver.md R241). -/
def execRxSetup (s : State) : Result :=
  command s (exclusive .rxSetup rxSetupOp)

/-- The cursor and the descriptor word of the cursor slot, where `RX_SETUP` has run (41_rx_ring.md R171). -/
def rxCursorWord (i : Instr) (s : State) : Attempt (Nat × Layout × Word) := do
  require (s.rxState = .ready) (.notSetup i)
  let c ← known s.rxCursor .rxCursor
  let L ← s.layoutOf
  let w ← s.loadWord (L.rxdOff c)
  .ok (c, L, w)

/-- `RX_AVAIL` (41_rx_ring.md R171). -/
def rxAvailOp (s : State) : Attempt State := do
  let (_, _, w) ← rxCursorWord .rxAvail s
  .ok ((s.setRes (if rxOwn w then 1 else 0)).setSt .ok)

/-- `RX_AVAIL` as an issued command; allowed while a handle is held (41_rx_ring.md R171). -/
def execRxAvail (s : State) : Result := command s rxAvailOp

/-- No borrow is open, else the fault that names its slot (41_rx_ring.md R172; log 12). -/
def requireNoBorrow (s : State) : Attempt Unit :=
  match s.rxBorrow with
  | some i => .error (.raise (.rxBorrowOpen i))
  | none => .ok ()

/-- `RX_RECV_NEXT` without its handle check (41_rx_ring.md R172). -/
def rxRecvNextOp (s : State) : Attempt State := do
  require (s.rxState = .ready) (.notSetup .rxRecvNext)
  requireNoBorrow s
  let (c, L, w) ← rxCursorWord .rxRecvNext s
  require (rxOwn w = true) (.rxRecvNotReady c)
  .ok { s with rxBorrow := some c, res := some (vaWord (L.rxbVa s.cfg.mtu c)), st := some .ok }

/-- `RX_RECV_NEXT` as an issued command (41_rx_ring.md R172, 44_driver.md R241). -/
def execRxRecvNext (s : State) : Result :=
  command s (exclusive .rxRecvNext rxRecvNextOp)

/-- `RX_MARK_DONE` without its handle check (41_rx_ring.md R174). -/
def rxMarkDoneOp (s : State) : Attempt State := do
  let (c, L, w) ← rxCursorWord .rxMarkDone s
  require (rxOwn w = true) (.rxDoneNotReady c)
  let s ← s.storeWord (L.rxdOff c) (rxReleased w)
  .ok { s with rxBorrow := none, rxCursor := some (cursorNext s.cfg.n c), st := some .ok }

/-- `RX_MARK_DONE` as an issued command (41_rx_ring.md R174, 44_driver.md R241). -/
def execRxMarkDone (s : State) : Result :=
  command s (exclusive .rxMarkDone rxMarkDoneOp)

end Sys2Proof.Machine
end

