-- ==== Sys2Proof/Machine/TxRing.lean ====
section
/-! DEFINITION. The transmit ring, software side: `TX_SETUP`, `TX_AVAIL`, `TX_GET_NEXT_BUFFER`,
`TX_SEND_COMPLETE` (42_tx_ring.md), and the dummy descriptor: `DUMMY_SETUP` (43_dummy_tx.md). -/

namespace Sys2Proof.Machine

/-- The two words `TX_SETUP` writes for slot `i` (42_tx_ring.md R200). -/
def txEntryBytes (c : Config) (L : Layout) (i : Nat) : List Byte :=
  wordBytes (paWord (L.txbPa c.mtu i)) ++ wordBytes (txSetupStatus (i + 1 == c.n))

/-- The TX table after setup, record after record (42_tx_ring.md R200). -/
def txTable (c : Config) (L : Layout) : List Byte := (List.range c.n).flatMap (txEntryBytes c L)

/-- `TX_SETUP` (42_tx_ring.md R200): the records of slots 0 to `N-1` stand at `txd0(0) ..`, one after another. -/
def txSetupOp (s : State) : Attempt State := do
  require (s.layoutSet = true) (.notSetup .txSetup)
  require (s.txState = .uninit) (.setupTwice .txSetup)
  let L ← s.layoutOf
  let s ← s.storeBytes (L.txd0Off 0) (txTable s.cfg L)
  .ok { s with txCursor := some 0, txClaim := none, txState := .ready, st := some .ok }

/-- `TX_SETUP` as an issued command (42_tx_ring.md R200, 44_driver.md R241). -/
def execTxSetup (s : State) : Result :=
  command s (exclusive .txSetup txSetupOp)

/-- The cursor and the status word of the cursor slot (42_tx_ring.md R201). -/
def txCursorWord (s : State) : Attempt (Nat × Layout × Word) := do
  let c ← known s.txCursor .txCursor
  let L ← s.layoutOf
  let w ← s.loadWord (L.txd1Off c)
  .ok (c, L, w)

/-- `TX_AVAIL` (42_tx_ring.md R201). -/
def txAvailOp (s : State) : Attempt State := do
  require (s.txState = .ready) (.notSetup .txAvail)
  let (_, _, w) ← txCursorWord s
  .ok ((s.setRes (if txUsed w then 1 else 0)).setSt .ok)

/-- `TX_AVAIL` as an issued command; allowed while a handle is held (42_tx_ring.md R201). -/
def execTxAvail (s : State) : Result := command s txAvailOp

/-- No claim is open, else the fault that names its slot (42_tx_ring.md R202; log 12). -/
def requireNoClaim (s : State) : Attempt Unit :=
  match s.txClaim with
  | some k => .error (.raise (.txClaimPending k.slot))
  | none => .ok ()

/-- `TX_GET_NEXT_BUFFER len` without its handle check (42_tx_ring.md R202, R203). -/
def txGetNextBufferOp (len : Nat) (s : State) : Attempt State := do
  require (s.txState = .ready) (.notSetup (.txGetNextBuffer (BitVec.ofNat 32 len)))
  requireNoClaim s
  require (len ≤ s.cfg.mtu) (.txLenOversize len)
  let (c, L, w) ← txCursorWord s
  require (txUsed w = true) (.txSlotNotFree c)
  let s ← s.storeWord (L.txd1Off c) (txClaimed w len)
  .ok { s with
    txClaim := some { slot := c, len := len }, res := some (vaWord (L.txbVa s.cfg.mtu c)), st := some .ok }

/-- `TX_GET_NEXT_BUFFER len` as an issued command (42_tx_ring.md R202, 44_driver.md R241). -/
def execTxGetNextBuffer (len : Word) (s : State) : Result :=
  command s (exclusive (.txGetNextBuffer len) (txGetNextBufferOp (lenOf len)))

/-- `TX_SEND_COMPLETE` without its handle check: the new state and the descriptor's physical address
(42_tx_ring.md R205). -/
def txSendCompleteOp (s : State) : Attempt (State × Word) := do
  require (s.txState = .ready) (.notSetup .txSendComplete)
  let c ← known s.txCursor .txCursor
  require (s.txClaim.map Claim.slot = some c) .txNoClaim
  let L ← s.layoutOf
  let a := paWord (L.txdPa c)
  .ok ({ s with
    res := some (zext64 a), txCursor := some (cursorNext s.cfg.n c), txClaim := none, st := some .ok }, a)

/-- `TX_SEND_COMPLETE` by itself: nothing is kicked (42_tx_ring.md R205). -/
def txCommitOp (s : State) : Attempt State := do
  let (s, _) ← txSendCompleteOp s
  .ok s

/-- `TX_SEND_COMPLETE` as an issued command (42_tx_ring.md R205, 44_driver.md R241). -/
def execTxSendComplete (s : State) : Result :=
  command s (exclusive .txSendComplete txCommitOp)

/-- `DUMMY_SETUP` (43_dummy_tx.md R230): address word 0, status word `USED` and `WRAP`. -/
def dummySetupOp (s : State) : Attempt State := do
  require (s.layoutSet = true) (.notSetup .dummySetup)
  require (s.dmyState = .uninit) (.setupTwice .dummySetup)
  let L ← s.layoutOf
  let s ← s.storeWord L.dmy0Off 0
  let s ← s.storeWord L.dmy1Off dummyStatus
  .ok { s with dmyState := .ready, st := some .ok }

/-- `DUMMY_SETUP` as an issued command (43_dummy_tx.md R230, 44_driver.md R241). -/
def execDummySetup (s : State) : Result :=
  command s (exclusive .dummySetup dummySetupOp)

end Sys2Proof.Machine
end

