-- ==== Sys2Proof/Machine/Driver.lean ====
section
/-! DEFINITION. The driver and the token contract: construction, availability checks, the two handles, buffer
access, queries (44_driver.md). -/

namespace Sys2Proof.Machine

/-- `DRV_INIT` (44_driver.md R257): the seven steps in order; a fault of one undoes all (00_scope.md R18). -/
def drvInitOp (s : State) : Attempt State := do
  let s ← layoutOp s
  let s ← rxSetupOp s
  let s ← txSetupOp s
  let s ← dummySetupOp s
  let L ← s.layoutOf
  let s ← devSetRxqBaseOp (paWord L.rxd.pa) s
  let s ← devSetTxqBaseOp (paWord L.txd.pa) s
  let s ← devSetTxq1BaseOp (paWord L.dmy.pa) s
  .ok (s.setSt .ok)

/-- `DRV_INIT` as an issued command (44_driver.md R257, R241). -/
def execDrvInit (s : State) : Result :=
  command s (exclusive .drvInit drvInitOp)

/-- `DRV_RECEIVE` without its handle check (44_driver.md R242). -/
def drvReceiveOp (s : State) : Attempt State := do
  require (s.constructed = true) (.notSetup .drvReceive)
  let (_, _, rw) ← rxCursorWord .drvReceive s
  let (_, _, tw) ← txCursorWord s
  .ok (if rxOwn rw && txUsed tw then { s with hrx := .live, htx := .live, st := some .ok } else s.setSt .notReady)

/-- `DRV_RECEIVE` as an issued command (44_driver.md R242, R241). -/
def execDrvReceive (s : State) : Result := command s (exclusive .drvReceive drvReceiveOp)

/-- `DRV_TRANSMIT` without its handle check (44_driver.md R243). -/
def drvTransmitOp (s : State) : Attempt State := do
  require (s.constructed = true) (.notSetup .drvTransmit)
  let (_, _, tw) ← txCursorWord s
  .ok (if txUsed tw then { s with htx := .live, st := some .ok } else s.setSt .notReady)

/-- `DRV_TRANSMIT` as an issued command (44_driver.md R243, R241). -/
def execDrvTransmit (s : State) : Result := command s (exclusive .drvTransmit drvTransmitOp)

/-- `RXH_BEGIN` (44_driver.md R244). -/
def rxhBeginOp (s : State) : Attempt State := do
  require (s.hrx = .live) (.handleViolation .rxhBegin s.hrx s.htx)
  require (s.htx ≠ .active) (.handleViolation .rxhBegin s.hrx s.htx)
  let s ← rxRecvNextOp s
  .ok { s with hrx := .active }

/-- `RXH_BEGIN` as an issued command (44_driver.md R244). -/
def execRxhBegin (s : State) : Result := command s rxhBeginOp

/-- `RXH_END r` (44_driver.md R245). -/
def rxhEndOp (r : Word) (s : State) : Attempt State := do
  require (s.hrx = .active) (.handleViolation (.rxhEnd r) s.hrx s.htx)
  let s ← rxMarkDoneOp s
  .ok { s with hrx := .none, res := some (zext64 r), st := some .ok }

/-- `RXH_END r` as an issued command (44_driver.md R245). -/
def execRxhEnd (r : Word) (s : State) : Result := command s (rxhEndOp r)

/-- `TXH_BEGIN len` (44_driver.md R247) with the oversize policy (R248). -/
def txhBeginOp (len : Word) (s : State) : Attempt State := do
  require (s.htx = .live) (.handleViolation (.txhBegin len) s.hrx s.htx)
  require (s.hrx ≠ .active) (.handleViolation (.txhBegin len) s.hrx s.htx)
  if lenOf len ≤ s.cfg.mtu then
    let s ← txGetNextBufferOp (lenOf len) s
    .ok { s with htx := .active }
  else
    match s.cfg.oversizePolicy with
    | .truncate =>
      let s ← txGetNextBufferOp s.cfg.mtu { s with oversizeMarker := true }
      .ok { s with htx := .active }
    | .reject => .ok { s with htx := .none, st := some .rejected }

/-- `TXH_BEGIN len` as an issued command (44_driver.md R247). -/
def execTxhBegin (len : Word) (s : State) : Result := command s (txhBeginOp len)

/-- `TXH_END r` (44_driver.md R249): commit and kick, one atomic command. -/
def txhEndOp (r : Word) (s : State) : Attempt State := do
  require (s.htx = .active) (.handleViolation (.txhEnd r) s.hrx s.htx)
  let (s, a) ← txSendCompleteOp s
  let s ← devKickOp a s
  .ok { s with htx := .none, res := some (zext64 r), st := some .ok }

/-- `TXH_END r` as an issued command (44_driver.md R249). -/
def execTxhEnd (r : Word) (s : State) : Result := command s (txhEndOp r)

/-- `HANDLE_DROP which` (44_driver.md R250). -/
def handleDropOp (which : Which) (s : State) : Attempt State :=
  match which with
  | .rx => do
    require (s.hrx = .live) (.handleViolation (.handleDrop .rx) s.hrx s.htx)
    .ok { s with hrx := .none, st := some .ok }
  | .tx => do
    require (s.htx = .live) (.handleViolation (.handleDrop .tx) s.hrx s.htx)
    .ok { s with htx := .none, st := some .ok }

/-- `HANDLE_DROP which` as an issued command (44_driver.md R250). -/
def execHandleDrop (which : Which) (s : State) : Result := command s (handleDropOp which)

/-- The region offset of byte `off` of the open slice, else `BUF_OUT_OF_SLICE` (44_driver.md R252, R253). -/
def sliceByte (ring : Ring) (off : Nat) (s : State) : Attempt Nat :=
  match sliceSlot? ring off s.cfg.mtu s.rxBorrow s.txClaim with
  | some i => do
    let L ← s.layoutOf
    .ok (L.slotOff ring s.cfg.mtu i + off)
  | none => .error (.raise (.bufOutOfSlice ring off))

/-- `BUF_RD ring, off` (44_driver.md R252). -/
def bufRdOp (ring : Ring) (off : BitVec 16) (s : State) : Attempt State := do
  let a ← sliceByte ring off.toNat s
  let b ← s.loadByte a
  .ok ((s.setRes (b.setWidth 64)).setSt .ok)

/-- `BUF_RD ring, off` as an issued command (44_driver.md R252, R256). -/
def execBufRd (ring : Ring) (off : BitVec 16) (s : State) : Result := command s (bufRdOp ring off)

/-- `BUF_WR ring, off, byte` (44_driver.md R253). -/
def bufWrOp (ring : Ring) (off : BitVec 16) (byte : Byte) (s : State) : Attempt State := do
  let a ← sliceByte ring off.toNat s
  let s ← s.storeBytes a [byte]
  .ok (s.setSt .ok)

/-- `BUF_WR ring, off, byte` as an issued command (44_driver.md R253). -/
def execBufWr (ring : Ring) (off : BitVec 16) (byte : Byte) (s : State) : Result := command s (bufWrOp ring off byte)

/-- `DRV_CLASSIFY_IRQ` (44_driver.md R254): the flags are read and not cleared. -/
def drvClassifyIrqOp (s : State) : Attempt State :=
  .ok ((s.setRes (irqClass s.rxComplete s.txComplete)).setSt .ok)

/-- `DRV_CLASSIFY_IRQ` as an issued command (44_driver.md R254, R256). -/
def execDrvClassifyIrq (s : State) : Result := command s drvClassifyIrqOp

/-- `DRV_CAPS` (44_driver.md R255). -/
def drvCapsOp (s : State) : Attempt State := .ok ((s.setRes (capsWord s.cfg.mtu)).setSt .ok)

/-- `DRV_CAPS` as an issued command (44_driver.md R255, R256). -/
def execDrvCaps (s : State) : Result := command s drvCapsOp

end Sys2Proof.Machine
end

