-- ==== Sys2Proof/Machine/Dispatch.lean ====
section
/-! DEFINITION. One arm per constructor of Instr: the instruction's meaning. -/

namespace Sys2Proof.Machine

def exec (i : Instr) (s : State) : Host.Outcome State Fault Refusal :=
  match i with
  | .layout => Sys2Proof.Machine.execLayout s
  | .rxSetup => Sys2Proof.Machine.execRxSetup s
  | .rxAvail => Sys2Proof.Machine.execRxAvail s
  | .rxRecvNext => Sys2Proof.Machine.execRxRecvNext s
  | .rxMarkDone => Sys2Proof.Machine.execRxMarkDone s
  | .txSetup => Sys2Proof.Machine.execTxSetup s
  | .txAvail => Sys2Proof.Machine.execTxAvail s
  | .txGetNextBuffer len => Sys2Proof.Machine.execTxGetNextBuffer len s
  | .txSendComplete => Sys2Proof.Machine.execTxSendComplete s
  | .dummySetup => Sys2Proof.Machine.execDummySetup s
  | .drvInit => Sys2Proof.Machine.execDrvInit s
  | .drvReceive => Sys2Proof.Machine.execDrvReceive s
  | .drvTransmit => Sys2Proof.Machine.execDrvTransmit s
  | .rxhBegin => Sys2Proof.Machine.execRxhBegin s
  | .rxhEnd r => Sys2Proof.Machine.execRxhEnd r s
  | .txhBegin len => Sys2Proof.Machine.execTxhBegin len s
  | .txhEnd r => Sys2Proof.Machine.execTxhEnd r s
  | .handleDrop which => Sys2Proof.Machine.execHandleDrop which s
  | .drvCaps => Sys2Proof.Machine.execDrvCaps s
  | .drvClassifyIrq => Sys2Proof.Machine.execDrvClassifyIrq s
  | .bufRd ring off => Sys2Proof.Machine.execBufRd ring off s
  | .bufWr ring off byte => Sys2Proof.Machine.execBufWr ring off byte s
  | .devSetRxqBase pa => Sys2Proof.Machine.execDevSetRxqBase pa s
  | .devSetTxqBase pa => Sys2Proof.Machine.execDevSetTxqBase pa s
  | .devSetTxq1Base pa => Sys2Proof.Machine.execDevSetTxq1Base pa s
  | .devKick pa => Sys2Proof.Machine.execDevKick pa s
  | .devClearIrq => Sys2Proof.Machine.execDevClearIrq s
  | .simRxSetOwn idx => Sys2Proof.Machine.execSimRxSetOwn idx s
  | .simTxSetOwn idx => Sys2Proof.Machine.execSimTxSetOwn idx s
  | .dmaRxFrame => Sys2Proof.Machine.execDmaRxFrame s
  | .dmaRxDrop => Sys2Proof.Machine.execDmaRxDrop s
  | .dmaTxFrame => Sys2Proof.Machine.execDmaTxFrame s
  | .dmaTxStop => Sys2Proof.Machine.execDmaTxStop s

end Sys2Proof.Machine
end

