-- ==== Sys2Proof/Machine/Agenda.lean ====
section
/-! DEFINITION. Whose turn a step is, and what that turn does: the next command of the program, or one step of
the DMA agent (10_state.md R34, 45_dma_engine.md R294); traces as words (30_encoding.md R128). -/

namespace Sys2Proof.Machine

/-- The coming turn: pinned by the agenda, else free (45_dma_engine.md R294; log 4). -/
def State.nextTurn (s : State) : Turn :=
  match s.agenda with
  | t :: _ => t
  | [] => Config.schedule s.turn

/-- The state in which a turn's command or DMA step runs: the turn is taken off the agenda, counted, and its
draws stand (log 4, 7, 8). -/
def State.beginTurn (s : State) (d : Draw) : State :=
  { s with agenda := s.agenda.tail, turn := s.turn + 1, draw := d }

/-- The word of the next command; none at the program's end (10_state.md R34). -/
def State.fetch (s : State) : Option CmdWord := s.program[s.pc]?

/-- The software agent's turn: the next command, its decoding first (60_exceptions.md R336); past the program's
end there is none and nothing happens (10_state.md R34; log 6). -/
def softwareTurn (s : State) : Result :=
  match s.fetch with
  | some w =>
    match decodeCommand? w with
    | some i => exec i s
    | none => command s fun _ => .error (.raise (.illegalCommand w))
  | none => .next s

/-- The turn a step takes (45_dma_engine.md R294). -/
def takeTurn (s : State) : Result :=
  match s.nextTurn with
  | .command => softwareTurn (s.beginTurn .free)
  | .dma e d => exec e.toInstr (s.beginTurn d)

/-- The turn a trace word stands for (30_encoding.md R128): a DMA step with nothing pinned, or a command. -/
def turnOfWord (w : CmdWord) : Turn :=
  match decode w with
  | .ok i =>
    match i.dmaEvent? with
    | some e => .dma e .free
    | none => .command
  | .error _ => .command

/-- `s` with a trace listing placed for its next turns: the commands are the program from `pc` on, the DMA
events are turns between them (30_encoding.md R128, R131). -/
def State.withTrace (s : State) (ws : List CmdWord) : State :=
  { s with
    program := s.program.take s.pc ++ List.replicate (s.pc - s.program.length) 0 ++
      ws.filter (fun w => turnOfWord w == .command)
    agenda := ws.map turnOfWord }

/-- `s` with one trace word placed for its very next turn, the rest of the program and of the agenda as they
are (log 16). -/
def State.placeWord (s : State) (w : CmdWord) : State :=
  match turnOfWord w with
  | .dma e d => { s with agenda := .dma e d :: s.agenda }
  | .command =>
    { s with
      program := s.program.take s.pc ++ List.replicate (s.pc - s.program.length) 0 ++
        w :: s.program.drop (s.pc + 1)
      agenda := .command :: s.agenda }

end Sys2Proof.Machine
end

