-- ==== Sys2Proof/Machine/Step.lean ====
section
/-! DEFINITION. One step of the machine, and the placing of a word where the next step runs it. -/

namespace Sys2Proof.Machine

/-- One step: one turn of one agent; none once the fault record is set (10_state.md R54, 60_exceptions.md R330). -/
def step (s : State) : Host.Outcome State Fault Refusal :=
  match s.fault with
  | some r => .fault (.halted r)
  | none => takeTurn s

/-- `s` with the trace word `w` placed for the very next step (log 16). -/
def State.withFetchWord (s : State) (_nbits w : Nat) : State := s.placeWord (BitVec.ofNat 64 w)

end Sys2Proof.Machine
end

