-- ==== Sys2Proof/Machine/Pseudo.lean ====
section
/-! DEFINITION. Pseudo-commands and their expansions, assembler text, and a list of commands issued one after
another (30_encoding.md R131, R132). -/

namespace Sys2Proof.Machine

/-- The pseudo-commands, with the callback's accesses as `ops` (30_encoding.md R132). -/
inductive Pseudo where
  | rxConsume (r : Word) (ops : List Instr)
  | txConsume (len r : Word) (ops : List Instr)
  | recvFrame (r : Word) (ops : List Instr)
  | sendFrame (len r : Word) (ops : List Instr)
  | initSeq
  deriving DecidableEq, Repr

/-- `RX_CONSUME r`, its callback's accesses between its BEGIN and its END (30_encoding.md R132). -/
def rxConsume (r : Word) (ops : List Instr) : List Instr := .rxhBegin :: (ops ++ [.rxhEnd r])

/-- `TX_CONSUME len, r`, its callback's accesses between its BEGIN and its END (30_encoding.md R132). -/
def txConsume (len r : Word) (ops : List Instr) : List Instr := .txhBegin len :: (ops ++ [.txhEnd r])

/-- The expansion of a pseudo-command, with the layout that `INIT_SEQ` names (30_encoding.md R132). -/
def Pseudo.expand (L : Layout) : Pseudo → List Instr
  | .rxConsume r ops => Sys2Proof.Machine.rxConsume r ops
  | .txConsume len r ops => Sys2Proof.Machine.txConsume len r ops
  | .recvFrame r ops => .drvReceive :: (Sys2Proof.Machine.rxConsume r ops ++ [.handleDrop .tx])
  | .sendFrame len r ops => .drvTransmit :: Sys2Proof.Machine.txConsume len r ops
  | .initSeq =>
    [.layout, .rxSetup, .txSetup, .dummySetup, .devSetRxqBase (paWord L.rxd.pa), .devSetTxqBase (paWord L.txd.pa),
      .devSetTxq1Base (paWord L.dmy.pa)]

/-- Instructions run one after another, each from the state the one before left. -/
def execList : List Instr → State → Result
  | [], s => .next s
  | i :: is, s =>
    match exec i s with
    | .next t => execList is t
    | .fault f => .fault f
    | .refused r => .refused r

/-- The ring selector in assembler text (30_encoding.md R131). -/
def Ring.asm : Ring → String
  | .rx => "rx"
  | .tx => "tx"

/-- The handle selector in assembler text (30_encoding.md R131). -/
def Which.asm : Which → String
  | .rx => "rx"
  | .tx => "tx"

/-- The assembler text of a command; a DMA step is written with a leading `@` (30_encoding.md R131). -/
def asm (i : Instr) : String :=
  match i with
  | .txGetNextBuffer len => i.mnemonic ++ " " ++ toString len.toNat
  | .rxhEnd r => i.mnemonic ++ " " ++ toString r.toNat
  | .txhBegin len => i.mnemonic ++ " " ++ toString len.toNat
  | .txhEnd r => i.mnemonic ++ " " ++ toString r.toNat
  | .handleDrop which => i.mnemonic ++ " " ++ Which.asm which
  | .bufRd ring off => i.mnemonic ++ " " ++ Ring.asm ring ++ ", " ++ toString off.toNat
  | .bufWr ring off byte =>
    i.mnemonic ++ " " ++ Ring.asm ring ++ ", " ++ toString off.toNat ++ ", " ++ toString byte.toNat
  | .devSetRxqBase pa => i.mnemonic ++ " " ++ toString pa.toNat
  | .devSetTxqBase pa => i.mnemonic ++ " " ++ toString pa.toNat
  | .devSetTxq1Base pa => i.mnemonic ++ " " ++ toString pa.toNat
  | .devKick pa => i.mnemonic ++ " " ++ toString pa.toNat
  | .simRxSetOwn idx => i.mnemonic ++ " " ++ toString idx.toNat
  | .simTxSetOwn idx => i.mnemonic ++ " " ++ toString idx.toNat
  | .dmaRxFrame | .dmaRxDrop | .dmaTxFrame | .dmaTxStop => "@" ++ i.mnemonic
  | .layout | .rxSetup | .rxAvail | .rxRecvNext | .rxMarkDone | .txSetup | .txAvail | .txSendComplete
  | .dummySetup | .drvInit | .drvReceive | .drvTransmit | .rxhBegin | .drvCaps | .drvClassifyIrq
  | .devClearIrq => i.mnemonic

end Sys2Proof.Machine
end

