-- ==== Sys2Proof/Safety.lean ====
section
/-! DEFINITION. What counts as a safe run: no fault record, and the invariants the spec derives
(10_state.md R55 to R61). -/

namespace Sys2Proof.Machine

/-- No fault has been raised (60_exceptions.md R330). -/
abbrev State.safe (s : State) : Prop := s.fault = none

/-- No handle is held (44_driver.md R241). -/
abbrev State.noHandle (s : State) : Prop := s.hrx = .none ∧ s.htx = .none

/-- Whether a word may stand in a program (30_encoding.md R124, R126, R127): it belongs to a command's row, and
for a harness command the configuration has `HARNESS = 1`. -/
def LegalWord (c : Config) (w : CmdWord) : Prop :=
  ∃ r ∈ softwareRows ++ deviceRows, r.admits w = true ∧
    ((opField w = 0xF0 ∨ opField w = 0xF1) → c.harness = true)

/-- Region offset `off` and both its addresses are multiples of `a` (40_layout.md R154, 70_reset_and_hazards.md R373;
log 25). -/
def AlignedAt (c : Config) (off a : Nat) : Prop :=
  off % a = 0 ∧ (c.paBase + off) % a = 0 ∧ (c.vaBase + off) % a = 0

/-- The word at a region offset is written and `p` holds of it; `false` where it is not written (log 24). -/
def State.wordHas (s : State) (off : Nat) (p : Word → Bool) : Bool :=
  match s.mem.readWord off with
  | some w => p w
  | none => false

/-- RX slot `i` is `SW_OWNED` (30_encoding.md R114): its descriptor word is written and bit 0 is 1. That an
unwritten word does not count is the model's choice (log 24). -/
def rxOwned (s : State) (L : Layout) (i : Nat) : Bool := s.wordHas (L.rxdOff i) rxOwn

/-- TX slot `i` is `HW_OWNED` (30_encoding.md R120): its status word is written and bit 31 is 0. That an unwritten
word does not count is the model's choice (log 24). -/
def txBusy (s : State) (L : Layout) (i : Nat) : Bool := s.wordHas (L.txd1Off i) fun w => !txUsed w

/-- The state of an RX slot (10_state.md R55). -/
inductive RxSlot where
  | hwOwned
  | swOwned
  | borrowed
  deriving DecidableEq, Repr

/-- The state of a TX slot (10_state.md R56). -/
inductive TxSlot where
  | empty
  | claimed
  | committed
  deriving DecidableEq, Repr

/-- The state of RX slot `i`, by bit 0 of its descriptor word (10_state.md R55). The spec gives a slot whose word is
unwritten no state, and the model's choice there is `none` (log 24). -/
def rxSlot (s : State) (L : Layout) (i : Nat) : Option RxSlot :=
  (s.mem.readWord (L.rxdOff i)).map fun w =>
    if rxOwn w then (if s.rxBorrow = some i then .borrowed else .swOwned) else .hwOwned

/-- The state of TX slot `i`, by bit 31 of its status word (10_state.md R56). The spec gives a slot whose word is
unwritten no state, and the model's choice there is `none` (log 24). -/
def txSlot (s : State) (L : Layout) (i : Nat) : Option TxSlot :=
  (s.mem.readWord (L.txd1Off i)).map fun w =>
    if txUsed w then .empty else if s.txClaim.map Claim.slot = some i then .claimed else .committed

/-- How many RX descriptors have bit 0 = 1: `k` of 10_state.md R58. -/
def rxOwnedCount (s : State) (L : Layout) : Nat := (List.range s.cfg.n).countP (rxOwned s L)

/-- How many TX descriptors have status bit 31 = 0: `m` of 10_state.md R60. -/
def txBusyCount (s : State) (L : Layout) : Nat := (List.range s.cfg.n).countP (txBusy s L)

/-- `q` of 10_state.md R60: 1 while a claim is open. -/
def claimCount (s : State) : Nat := if s.txClaim.isSome then 1 else 0

/-- The setup order is respected and every variable a setup writes holds a legal value once it has run
(10_state.md R40 to R47, 70_reset_and_hazards.md R371). -/
structure SetupInv (s : State) : Prop where
  memWf : s.mem.wf
  memInRegion : ∀ c ∈ s.mem, c.1 < s.cfg.size
  layoutUnset : s.layoutSet = false → s.layout = none
  layoutIs : s.layoutSet = true → s.layout = some (layoutFor s.cfg) ∧ layoutAccepts s.cfg
  rxNeedsLayout : s.rxState = .ready → s.layoutSet = true
  txNeedsLayout : s.txState = .ready → s.layoutSet = true
  dmyNeedsLayout : s.dmyState = .ready → s.layoutSet = true
  rxCursorLegal : s.rxState = .ready → ∃ c < s.cfg.n, s.rxCursor = some c
  txCursorLegal : s.txState = .ready → ∃ c < s.cfg.n, s.txCursor = some c
  rxUnset : s.rxqSet = false → s.hwRxIdx = none ∧ s.rxqBase = none ∧ s.rxEnabled = false
  txUnset : s.txqSet = false → s.hwTxIdx = none ∧ s.txqBase = none ∧ s.txRunning = false
  txq1Unset : s.txq1Set = false → s.txq1Base = none
  rxSet : s.rxqSet = true → s.rxState = .ready ∧ s.rxEnabled = true ∧
    s.rxqBase = some (paWord (layoutFor s.cfg).rxd.pa) ∧ ∃ h < s.cfg.n, s.hwRxIdx = some h
  txSet : s.txqSet = true → s.txState = .ready ∧
    s.txqBase = some (paWord (layoutFor s.cfg).txd.pa) ∧ ∃ t < s.cfg.n, s.hwTxIdx = some t
  txq1Set : s.txq1Set = true → s.dmyState = .ready ∧ s.txq1Base = some (paWord (layoutFor s.cfg).dmy.pa)
  borrowAtCursor : ∀ i, s.rxBorrow = some i → s.rxState = .ready ∧ s.rxCursor = some i
  claimAtCursor : ∀ k, s.txClaim = some k → s.txState = .ready ∧ s.txCursor = some k.slot ∧ k.len ≤ s.cfg.mtu

/-- RX descriptor `i` holds its buffer's address, and its end-of-ring bit says whether it is the last
(10_state.md R57). -/
def rxEntryOk (s : State) (i : Nat) : Bool :=
  s.wordHas ((layoutFor s.cfg).rxdOff i) fun w =>
    rxAddr w == paWord ((layoutFor s.cfg).rxbPa s.cfg.mtu i) && rxWrap w == (i + 1 == s.cfg.n)

/-- TX descriptor `i` holds its buffer's address, its end-of-ring bit says whether it is the last (10_state.md
R59), and where it is `HW_OWNED` it is a whole frame of at most `MTU` bytes (45_dma_engine.md R306). -/
def txEntryOk (s : State) (i : Nat) : Bool :=
  s.wordHas ((layoutFor s.cfg).txd0Off i) (fun w => w == paWord ((layoutFor s.cfg).txbPa s.cfg.mtu i)) &&
    s.wordHas ((layoutFor s.cfg).txd1Off i) fun w =>
      txWrap w == (i + 1 == s.cfg.n) && (txUsed w || (txLast w && decide (txLen w ≤ s.cfg.mtu)))

/-- The descriptor words keep what setup wrote in them, harness runs included (10_state.md R57, R59;
43_dummy_tx.md R231). -/
structure RingWordsInv (s : State) : Prop where
  rxWords : s.rxState = .ready → ∀ i < s.cfg.n, rxEntryOk s i = true
  txWords : s.txState = .ready → ∀ i < s.cfg.n, txEntryOk s i = true
  dmyWords : s.dmyState = .ready →
    s.mem.readWord (layoutFor s.cfg).dmy0Off = some 0 ∧ s.mem.readWord (layoutFor s.cfg).dmy1Off = some dummyStatus

/-- RX occupancy (10_state.md R58): the `SW_OWNED` slots are the `k` slots from the tail `c` to the head `h`.
Before the base register is written the head counts as 0, where writing it puts it. -/
def RxOccupancy (s : State) : Prop :=
  s.rxState = .ready → ∀ c, s.rxCursor = some c →
    rxOwnedCount s (layoutFor s.cfg) ≤ s.cfg.n ∧
    (c + rxOwnedCount s (layoutFor s.cfg)) % s.cfg.n = s.hwRxIdx.getD 0 ∧
    ∀ i < s.cfg.n, rxOwned s (layoutFor s.cfg) i =
      decide ((i + s.cfg.n - c) % s.cfg.n < rxOwnedCount s (layoutFor s.cfg))

/-- TX occupancy (10_state.md R60): the `HW_OWNED` slots are the `m` slots from the tail `t`, and a claimed slot
is the last of them. Before the base register is written the tail counts as 0, where writing it puts it. -/
def TxOccupancy (s : State) : Prop :=
  s.txState = .ready → ∀ p, s.txCursor = some p →
    txBusyCount s (layoutFor s.cfg) ≤ s.cfg.n ∧
    (s.hwTxIdx.getD 0 + txBusyCount s (layoutFor s.cfg)) % s.cfg.n = (p + claimCount s) % s.cfg.n ∧
    (∀ i < s.cfg.n, txBusy s (layoutFor s.cfg) i =
      decide ((i + s.cfg.n - s.hwTxIdx.getD 0) % s.cfg.n < txBusyCount s (layoutFor s.cfg))) ∧
    (∀ k, s.txClaim = some k → k.slot = p ∧
      (p + s.cfg.n - s.hwTxIdx.getD 0) % s.cfg.n + 1 = txBusyCount s (layoutFor s.cfg))

/-- The handles reserve the cursor slots (44_driver.md R242 to R251, R260): a live handle's slot is still
software's, an active handle's borrow or claim is open, and a handle exists only once the driver is
constructed. -/
structure HandleInv (s : State) : Prop where
  rxConstructed : s.hrx ≠ .none → s.constructed = true
  txConstructed : s.htx ≠ .none → s.constructed = true
  rxReserved : s.hrx ≠ .none → ∀ c, s.rxCursor = some c → rxOwned s (layoutFor s.cfg) c = true
  rxActive : s.hrx = .active → s.rxBorrow = s.rxCursor
  txReserved : s.htx = .live → ∀ c, s.txCursor = some c → txBusy s (layoutFor s.cfg) c = false
  txActive : s.htx = .active → s.txClaim.map Claim.slot = s.txCursor
  notBothActive : ¬ (s.hrx = .active ∧ s.htx = .active)

/-- Every invariant that holds in the states reached without a harness command (10_state.md R57 to R60). -/
structure RingInv (s : State) : Prop where
  setup : SetupInv s
  words : RingWordsInv s
  rx : RxOccupancy s
  tx : TxOccupancy s
  handles : HandleInv s

/-- A step of the transmit engine is enabled exactly while it runs: one of `DMA_TX_FRAME` and `DMA_TX_STOP`
(45_dma_engine.md R304). -/
abbrev State.txStepEnabled (s : State) : Prop := s.fault = none ∧ s.txRunning = true

/-- The turn taken from `s` is the enabled step of the transmit engine. -/
def takesTxStep (s : State) : Prop :=
  match s.nextTurn with
  | .command => False
  | .dma e _ =>
    ∃ t w, s.hwTxIdx = some t ∧ s.mem.readWord ((layoutFor s.cfg).txd1Off t) = some w ∧
      e = if txUsed w then .txStop else .txFrame

/-- Weak fairness of the transmit engine (45_dma_engine.md R311): a step that stays enabled is taken. -/
def WeaklyFair (run : Nat → State) : Prop :=
  ∀ k, (∀ j, k ≤ j → (run j).txStepEnabled) → ∃ j, k ≤ j ∧ takesTxStep (run j)

/-- `run` is an execution: each state is the step of the one before (20_memory.md R92). -/
def IsRun (run : Nat → State) : Prop := ∀ k, step (run k) = .next (run (k + 1))

end Sys2Proof.Machine
end

