-- ==== Sys2Proof/Certificates/Slice0/Obligations.lean ====
section
/-! DEFINITION. The statements about the model, one definition each, in the order of OBLIGATIONS.json. -/

open Sys2Proof Sys2Proof.Machine

/-- 30_encoding.md R134: the worked command words, both ways, and the illegal one. R134 is the spec's own inference
from R123, R124 and R127. -/
def Obligations.WorkedCommandWords : Prop :=
  decode 0x0000002000000008 = .ok (.txGetNextBuffer 32) ∧ encode (.txGetNextBuffer 32) = 0x0000002000000008 ∧
  decode 0x80AB000500000016 = .ok (.bufWr .tx 5 0xAB) ∧ encode (.bufWr .tx 5 0xAB) = 0x80AB000500000016 ∧
  decode 0x0000000000000015 = .ok (.bufRd .rx 0) ∧ encode (.bufRd .rx 0) = 0x0000000000000015 ∧
  decode 0x0000000100000012 = .ok (.handleDrop .tx) ∧ encode (.handleDrop .tx) = 0x0000000100000012 ∧
  decode 0x1000011000000023 = .ok (.devKick 0x10000110) ∧ encode (.devKick 0x10000110) = 0x1000011000000023 ∧
  decode 0x000000070000000F = .ok (.rxhEnd 7) ∧ encode (.rxhEnd 7) = 0x000000070000000F ∧
  decode 0x0000000100000003 = .error (.nonzeroArg 1)

/-- Every instruction of the table, with every operand at every value its field admits, decodes from its own word
(30_encoding.md R123, R124, R127, R128). -/
def Obligations.DecodeOfEncode : Prop := ∀ i : Instr, decode (encode i) = .ok i

/-- A word that decodes is the word of the instruction it decodes to: no word has a second spelling
(30_encoding.md R126, R129, R130). -/
def Obligations.EncodeOfDecode : Prop := ∀ (w : CmdWord) (i : Instr), decode w = .ok i → encode i = w

/-- 30_encoding.md R126, R128, R129: at the software agent's turn a word that belongs to no command's row (a
reserved code, a DMA event code, a nonzero must-be-zero bit, a harness command without `HARNESS`) raises
`ILLEGAL_COMMAND` with the word; a word that belongs to one decodes to a command. That one step is one turn is the
model's choice (log 4); that the decoder reads a harness word and its meaning checks `HARNESS` is the model's
inference (log 14). -/
def Obligations.IllegalWordRaises : Prop :=
  (∀ (s : State) (w : CmdWord), s.fault = none → s.nextTurn = .command → s.program[s.pc]? = some w →
    ¬ LegalWord s.cfg w → step s = .next { s.beginTurn .free with fault := some (.illegalCommand w) }) ∧
  (∀ (c : Config) (w : CmdWord), LegalWord c w → ∃ i, decode w = .ok i ∧ i.isCommand = true) ∧
  (∀ (c : Config) (w : CmdWord), (opField w = 0x00 ∨ (0x17 ≤ opField w ∧ opField w ≤ 0x1F) ∨
      (0x25 ≤ opField w ∧ opField w ≤ 0xEF) ∨ 0xF2 ≤ opField w ∨ zField w ≠ 0) → ¬ LegalWord c w)

/-- At the software agent's turn, the word at `pc` that decodes to a command runs that command: the step is `exec`
of it from the state with the turn taken off the agenda, counted, and no draw pinned (log 4). -/
def Obligations.StepRunsDecodedCommand : Prop :=
  ∀ (s : State) (w : CmdWord) (i : Instr), s.fault = none → s.nextTurn = .command → s.program[s.pc]? = some w →
    decode w = .ok i → i.isCommand = true →
    step s = exec i { s with agenda := s.agenda.tail, turn := s.turn + 1, draw := Draw.free }

/-- At the DMA agent's turn the step is the event's rule with the turn's draws. An event that is not enabled
changes nothing (the model's choice, log 5), and a software turn past the program's end changes nothing (the
model's choice, log 6). -/
def Obligations.StepRunsDmaEvent : Prop :=
  (∀ (s : State) (e : DmaEvent) (d : Draw), s.fault = none → s.nextTurn = .dma e d →
    step s = exec e.toInstr { s with agenda := s.agenda.tail, turn := s.turn + 1, draw := d }) ∧
  (∀ s : State, s.fault = none → s.nextTurn = .command → s.program.length ≤ s.pc →
    step s = .next { s with agenda := s.agenda.tail, turn := s.turn + 1, draw := Draw.free }) ∧
  (∀ s : State, s.fault = none → s.rxEnabled = false → exec .dmaRxFrame s = .next s ∧ exec .dmaRxDrop s = .next s) ∧
  (∀ s : State, s.fault = none → s.txRunning = false → exec .dmaTxFrame s = .next s ∧ exec .dmaTxStop s = .next s) ∧
  (∀ (s : State) (h : Nat) (L : Layout) (w : Word), s.fault = none → s.rxEnabled = true → s.hwRxIdx = some h →
    s.layout = some L → L.rxdOff h + 4 ≤ s.cfg.size → s.mem.readWord (L.rxdOff h) = some w →
    (w.getLsbD 0 = true → exec .dmaRxFrame s = .next s) ∧ (w.getLsbD 0 = false → exec .dmaRxDrop s = .next s)) ∧
  (∀ (s : State) (t : Nat) (L : Layout) (w : Word), s.fault = none → s.txRunning = true → s.hwTxIdx = some t →
    s.layout = some L → L.txd1Off t + 4 ≤ s.cfg.size → s.mem.readWord (L.txd1Off t) = some w →
    (w.getLsbD 31 = true → exec .dmaTxFrame s = .next s) ∧ (w.getLsbD 31 = false → exec .dmaTxStop s = .next s))

/-- 60_exceptions.md R330: an instruction that raises a fault sets the record and changes nothing else, `pc`
included; from a state with a record no agent has a step. That a raised fault is a next state and that the state
after it answers the model's own `halted` is the model's inference (log 3). -/
def Obligations.FaultIsTerminal : Prop :=
  (∀ (i : Instr) (s t : State) (r : FaultRecord), exec i s = .next t → t.fault = some r →
    t = { s with fault := some r } ∧ t.pc = s.pc) ∧
  (∀ (s : State) (r : FaultRecord), s.fault = some r →
    step s = .fault (.halted r) ∧ ∀ i : Instr, exec i s = .fault (.halted r)) ∧
  (∀ (s t : State) (r : FaultRecord), step s = .next t → t.fault = some r →
    t = { s with agenda := t.agenda, turn := t.turn, draw := t.draw, fault := some r } ∧ t.pc = s.pc)

/-- 10_state.md R34: `pc` starts at 0, advances by exactly 1 after every command that does not fault, and no DMA
step moves it; no other value is ever written to it. That a software turn past the program's end leaves it is the
model's choice (log 6). -/
def Obligations.PcAdvancesByOne : Prop :=
  (∀ c : Config, (State.resetWith c).pc = 0) ∧
  (∀ (i : Instr) (s t : State), exec i s = .next t → t.fault = none →
    t.pc = if i.isCommand then s.pc + 1 else s.pc) ∧
  (∀ s t : State, step s = .next t → t.fault = none →
    t.pc = if s.nextTurn = .command ∧ s.pc < s.program.length then s.pc + 1 else s.pc)

/-- 10_state.md R30: no step changes the configuration; nor does one change the program (20_memory.md R98). That the
configuration is a field of State is the model's choice (log 1). -/
def Obligations.ConfigurationIsFixed : Prop :=
  (∀ (i : Instr) (s t : State), exec i s = .next t → t.cfg = s.cfg ∧ t.program = s.program) ∧
  (∀ s t : State, step s = .next t → t.cfg = s.cfg ∧ t.program = s.program)

/-- 10_state.md R63: the reset table, under every configuration. That unwritten is `none` is the model's inference
(logs 2 and 13). -/
def Obligations.ResetTable : Prop :=
  ∀ (c : Config) (s : State), s = State.resetWith c →
    s.res = none ∧ s.st = none ∧ s.pc = 0 ∧ (∀ off, s.mem.read off = none) ∧ s.layout = none ∧
    s.layoutSet = false ∧ s.rxState = .uninit ∧ s.txState = .uninit ∧ s.dmyState = .uninit ∧
    s.rxCursor = none ∧ s.txCursor = none ∧ s.rxBorrow = none ∧ s.txClaim = none ∧ s.hrx = .none ∧ s.htx = .none ∧
    s.rxqBase = none ∧ s.txqBase = none ∧ s.txq1Base = none ∧ s.rxqSet = false ∧ s.txqSet = false ∧
    s.txq1Set = false ∧ s.hwRxIdx = none ∧ s.hwTxIdx = none ∧ s.rxEnabled = false ∧ s.txRunning = false ∧
    s.rxComplete = false ∧ s.txComplete = false ∧ s.oversizeMarker = false ∧ s.wireTx = [] ∧ s.fault = none ∧
    s.cfg = c

/-- Every invariant holds at reset, under every configuration. -/
def Obligations.ResetMeetsInvariants : Prop :=
  (∀ c : Config, RingInv (State.resetWith c)) ∧ RingInv State.reset

/-- 40_layout.md R151: `LAYOUT` makes its six checks in order and writes the record, with the offsets of its
pseudocode. Of the five alignment checks three can be the first to fail: where the RX table is aligned its buffers
are, and where the TX table is aligned its buffers are, and the statement claims no more of those two. Aligned
means the offset and both addresses, so that no odd `N` passes (the model's choice, log 25). -/
def Obligations.LayoutRule : Prop :=
  ∀ s : State, s.fault = none → s.noHandle → ∀ n m e : Nat, n = s.cfg.n → m = s.cfg.mtu → e = 12 * n + 2 * m * n + 8 →
    (s.layoutSet = true → exec .layout s = .next { s with fault := some (.setupTwice .layout) }) ∧
    (s.layoutSet = false →
      (¬ (1 ≤ n ∧ m % 4 = 0 ∧ 4 ≤ m ∧ m ≤ 16380) →
        exec .layout s = .next { s with fault := some (.cfgBadParam n m) }) ∧
      (1 ≤ n → m % 4 = 0 → 4 ≤ m → m ≤ 16380 →
        (s.cfg.size < e → exec .layout s = .next { s with fault := some (.cfgRegionTooSmall e s.cfg.size) }) ∧
        (e ≤ s.cfg.size →
          (¬ AlignedAt s.cfg 0 4 → exec .layout s = .next { s with fault := some (.cfgMisaligned .rxd) }) ∧
          (AlignedAt s.cfg 0 4 → ¬ AlignedAt s.cfg (4 * n + m * n) 8 →
            exec .layout s = .next { s with fault := some (.cfgMisaligned .txd) }) ∧
          (AlignedAt s.cfg 0 4 → AlignedAt s.cfg (4 * n + m * n) 8 → ¬ AlignedAt s.cfg (12 * n + 2 * m * n) 8 →
            exec .layout s = .next { s with fault := some (.cfgMisaligned .dmy) }) ∧
          (AlignedAt s.cfg 0 4 → AlignedAt s.cfg (4 * n + m * n) 8 → AlignedAt s.cfg (12 * n + 2 * m * n) 8 →
            (2 ^ 32 < s.cfg.paBase + e →
              exec .layout s = .next { s with fault := some (.cfgPaOverflow s.cfg.paBase e) }) ∧
            (s.cfg.paBase + e ≤ 2 ^ 32 → 2 ^ 64 < s.cfg.vaBase + s.cfg.size →
              exec .layout s = .next { s with fault := some (.cfgVaOverflow s.cfg.vaBase s.cfg.size) }) ∧
            (s.cfg.paBase + e ≤ 2 ^ 32 → s.cfg.vaBase + s.cfg.size ≤ 2 ^ 64 →
              exec .layout s = .next { s with
                layout := some {
                  rxd := { off := 0, va := s.cfg.vaBase, pa := s.cfg.paBase }
                  rxb := { off := 4 * n, va := s.cfg.vaBase + 4 * n, pa := s.cfg.paBase + 4 * n }
                  txd := { off := 4 * n + m * n, va := s.cfg.vaBase + (4 * n + m * n),
                           pa := s.cfg.paBase + (4 * n + m * n) }
                  txb := { off := 12 * n + m * n, va := s.cfg.vaBase + (12 * n + m * n),
                           pa := s.cfg.paBase + (12 * n + m * n) }
                  dmy := { off := 12 * n + 2 * m * n, va := s.cfg.vaBase + (12 * n + 2 * m * n),
                           pa := s.cfg.paBase + (12 * n + 2 * m * n) }
                  stop := e }
                layoutSet := true, st := some .ok, pc := s.pc + 1 })))))

/-- 70_reset_and_hazards.md R373: parameters that put a TX table or the dummy record at an offset that is not a multiple
of 8, every odd `N` among them, raise `CFG_MISALIGNED` for every base; with bases that are multiples of 8 an odd `N`
is the only way to it. That the first two hold for bases that are 4 mod 8 is the model's choice between two readings
of the spec (log 25). -/
def Obligations.EvenRingDepthAligns : Prop :=
  ∀ s : State, s.fault = none → s.noHandle → s.layoutSet = false → 1 ≤ s.cfg.n → s.cfg.mtu % 4 = 0 → 4 ≤ s.cfg.mtu →
    s.cfg.mtu ≤ 16380 → 12 * s.cfg.n + 2 * s.cfg.mtu * s.cfg.n + 8 ≤ s.cfg.size →
    (s.cfg.n % 2 = 1 → ∃ x, exec .layout s = .next { s with fault := some (.cfgMisaligned x) }) ∧
    ((4 * s.cfg.n + s.cfg.mtu * s.cfg.n) % 8 ≠ 0 ∨ (12 * s.cfg.n + 2 * s.cfg.mtu * s.cfg.n) % 8 ≠ 0 →
      ∃ x, exec .layout s = .next { s with fault := some (.cfgMisaligned x) }) ∧
    (s.cfg.paBase % 8 = 0 → s.cfg.vaBase % 8 = 0 →
      ((∃ x, exec .layout s = .next { s with fault := some (.cfgMisaligned x) }) ↔ s.cfg.n % 2 = 1))

/-- 41_rx_ring.md R170: `RX_SETUP` writes every RX descriptor as a whole word, `HW_OWNED`, with its buffer's address
and the end-of-ring bit on the last one only; no other byte changes. -/
def Obligations.RxSetupRule : Prop :=
  ∀ s : State, s.fault = none →
    (¬ s.noHandle → exec .rxSetup s = .next { s with fault := some (.handleViolation .rxSetup s.hrx s.htx) }) ∧
    (s.noHandle → s.layoutSet = false → exec .rxSetup s = .next { s with fault := some (.notSetup .rxSetup) }) ∧
    (s.noHandle → s.layoutSet = true → s.rxState = .ready →
      exec .rxSetup s = .next { s with fault := some (.setupTwice .rxSetup) }) ∧
    (∀ L : Layout, s.noHandle → s.layoutSet = true → s.rxState = .uninit → s.layout = some L →
      L.rxd.off + 4 * s.cfg.n ≤ s.cfg.size →
      ∃ m : Memory, exec .rxSetup s = .next { s with
          mem := m, rxCursor := some 0, rxBorrow := none, rxState := .ready, st := some .ok, pc := s.pc + 1 } ∧
        (∀ i < s.cfg.n, m.readWord (L.rxd.off + 4 * i) =
          some ((BitVec.ofNat 32 (L.rxb.pa + i * s.cfg.mtu) &&& 0xFFFFFFFC) |||
            (if i + 1 = s.cfg.n then 0x00000002 else 0))) ∧
        ∀ a, a < L.rxd.off ∨ L.rxd.off + 4 * s.cfg.n ≤ a → m.read a = s.mem.read a)

/-- 41_rx_ring.md R171: `RX_AVAIL` answers the ownership bit of the cursor slot and writes nothing but `res`, `st`
and `pc`, whether or not a handle is held. -/
def Obligations.RxAvailRule : Prop :=
  ∀ s : State, s.fault = none →
    (s.rxState = .uninit → exec .rxAvail s = .next { s with fault := some (.notSetup .rxAvail) }) ∧
    (∀ (c : Nat) (L : Layout) (w : Word), s.rxState = .ready → s.rxCursor = some c → s.layout = some L →
      L.rxd.off + 4 * c + 4 ≤ s.cfg.size → s.mem.readWord (L.rxd.off + 4 * c) = some w →
      exec .rxAvail s = .next { s with
        res := some (if w.getLsbD 0 then 1 else 0), st := some .ok, pc := s.pc + 1 })

/-- 41_rx_ring.md R172: `RX_RECV_NEXT` opens the borrow of the cursor slot, or faults in the order its rule gives.
That the slot `RX_BORROW_OPEN` names is the borrow's is the model's inference (log 12). -/
def Obligations.RxRecvNextRule : Prop :=
  ∀ s : State, s.fault = none →
    (¬ s.noHandle → exec .rxRecvNext s = .next { s with fault := some (.handleViolation .rxRecvNext s.hrx s.htx) }) ∧
    (s.noHandle → s.rxState = .uninit → exec .rxRecvNext s = .next { s with fault := some (.notSetup .rxRecvNext) }) ∧
    (∀ b, s.noHandle → s.rxState = .ready → s.rxBorrow = some b →
      exec .rxRecvNext s = .next { s with fault := some (.rxBorrowOpen b) }) ∧
    (∀ (c : Nat) (L : Layout) (w : Word), s.noHandle → s.rxState = .ready → s.rxBorrow = none →
      s.rxCursor = some c → s.layout = some L → L.rxd.off + 4 * c + 4 ≤ s.cfg.size →
      s.mem.readWord (L.rxd.off + 4 * c) = some w →
      (w.getLsbD 0 = false → exec .rxRecvNext s = .next { s with fault := some (.rxRecvNotReady c) }) ∧
      (w.getLsbD 0 = true → exec .rxRecvNext s = .next { s with
        rxBorrow := some c, res := some (BitVec.ofNat 64 (L.rxb.va + c * s.cfg.mtu)), st := some .ok,
        pc := s.pc + 1 }))

/-- 41_rx_ring.md R174: `RX_MARK_DONE` clears the ownership bit of the cursor slot, keeps the rest of its word, closes
the borrow and advances the cursor by one, mod `N`. -/
def Obligations.RxMarkDoneRule : Prop :=
  ∀ s : State, s.fault = none →
    (¬ s.noHandle → exec .rxMarkDone s = .next { s with fault := some (.handleViolation .rxMarkDone s.hrx s.htx) }) ∧
    (s.noHandle → s.rxState = .uninit → exec .rxMarkDone s = .next { s with fault := some (.notSetup .rxMarkDone) }) ∧
    (∀ (c : Nat) (L : Layout) (w : Word), s.noHandle → s.rxState = .ready → s.rxCursor = some c →
      s.layout = some L → L.rxd.off + 4 * c + 4 ≤ s.cfg.size → s.mem.readWord (L.rxd.off + 4 * c) = some w →
      (w.getLsbD 0 = false → exec .rxMarkDone s = .next { s with fault := some (.rxDoneNotReady c) }) ∧
      (w.getLsbD 0 = true → exec .rxMarkDone s = .next { s with
        mem := s.mem.writeWord (L.rxd.off + 4 * c) (w &&& 0xFFFFFFFE), rxBorrow := none,
        rxCursor := some ((c + 1) % s.cfg.n), st := some .ok, pc := s.pc + 1 }))

/-- 42_tx_ring.md R200: `TX_SETUP` writes both words of every TX descriptor, `SW_OWNED`, with its buffer's address
and the end-of-ring bit on the last one only; no other byte changes. -/
def Obligations.TxSetupRule : Prop :=
  ∀ s : State, s.fault = none →
    (¬ s.noHandle → exec .txSetup s = .next { s with fault := some (.handleViolation .txSetup s.hrx s.htx) }) ∧
    (s.noHandle → s.layoutSet = false → exec .txSetup s = .next { s with fault := some (.notSetup .txSetup) }) ∧
    (s.noHandle → s.layoutSet = true → s.txState = .ready →
      exec .txSetup s = .next { s with fault := some (.setupTwice .txSetup) }) ∧
    (∀ L : Layout, s.noHandle → s.layoutSet = true → s.txState = .uninit → s.layout = some L →
      L.txd.off + 8 * s.cfg.n ≤ s.cfg.size →
      ∃ m : Memory, exec .txSetup s = .next { s with
          mem := m, txCursor := some 0, txClaim := none, txState := .ready, st := some .ok, pc := s.pc + 1 } ∧
        (∀ i < s.cfg.n, m.readWord (L.txd.off + 8 * i) = some (BitVec.ofNat 32 (L.txb.pa + i * s.cfg.mtu)) ∧
          m.readWord (L.txd.off + 8 * i + 4) = some (if i + 1 = s.cfg.n then 0xC0000000 else 0x80000000)) ∧
        ∀ a, a < L.txd.off ∨ L.txd.off + 8 * s.cfg.n ≤ a → m.read a = s.mem.read a)

/-- 42_tx_ring.md R201: `TX_AVAIL` answers bit 31 of the cursor slot's status word and writes nothing but `res`, `st`
and `pc`, whether or not a handle is held. -/
def Obligations.TxAvailRule : Prop :=
  ∀ s : State, s.fault = none →
    (s.txState = .uninit → exec .txAvail s = .next { s with fault := some (.notSetup .txAvail) }) ∧
    (∀ (c : Nat) (L : Layout) (w : Word), s.txState = .ready → s.txCursor = some c → s.layout = some L →
      L.txd.off + 8 * c + 8 ≤ s.cfg.size → s.mem.readWord (L.txd.off + 8 * c + 4) = some w →
      exec .txAvail s = .next { s with
        res := some (if w.getLsbD 31 then 1 else 0), st := some .ok, pc := s.pc + 1 })

/-- 42_tx_ring.md R202, R203: `TX_GET_NEXT_BUFFER len` makes its checks in order; then it rewrites the status word
of the cursor slot, keeping `WRAP`, and opens the claim. That the slot `TX_CLAIM_PENDING` names is the claim's is
the model's inference (log 12). -/
def Obligations.TxGetNextBufferRule : Prop :=
  ∀ (s : State) (len : Word), s.fault = none →
    (¬ s.noHandle → exec (.txGetNextBuffer len) s =
      .next { s with fault := some (.handleViolation (.txGetNextBuffer len) s.hrx s.htx) }) ∧
    (s.noHandle → s.txState = .uninit →
      exec (.txGetNextBuffer len) s = .next { s with fault := some (.notSetup (.txGetNextBuffer len)) }) ∧
    (∀ k, s.noHandle → s.txState = .ready → s.txClaim = some k →
      exec (.txGetNextBuffer len) s = .next { s with fault := some (.txClaimPending k.slot) }) ∧
    (s.noHandle → s.txState = .ready → s.txClaim = none → s.cfg.mtu < len.toNat →
      exec (.txGetNextBuffer len) s = .next { s with fault := some (.txLenOversize len.toNat) }) ∧
    (∀ (c : Nat) (L : Layout) (w : Word), s.noHandle → s.txState = .ready → s.txClaim = none →
      len.toNat ≤ s.cfg.mtu → s.txCursor = some c → s.layout = some L → L.txd.off + 8 * c + 8 ≤ s.cfg.size →
      s.mem.readWord (L.txd.off + 8 * c + 4) = some w →
      (w.getLsbD 31 = false → exec (.txGetNextBuffer len) s = .next { s with fault := some (.txSlotNotFree c) }) ∧
      (w.getLsbD 31 = true → exec (.txGetNextBuffer len) s = .next { s with
        mem := s.mem.writeWord (L.txd.off + 8 * c + 4) ((w &&& 0x40000000) ||| 0x00008000 ||| len),
        txClaim := some { slot := c, len := len.toNat },
        res := some (BitVec.ofNat 64 (L.txb.va + c * s.cfg.mtu)), st := some .ok, pc := s.pc + 1 }))

/-- 42_tx_ring.md R205: `TX_SEND_COMPLETE` commits the claimed slot, answers its descriptor's physical address and
advances the cursor by one, mod `N`; no descriptor word changes. -/
def Obligations.TxSendCompleteRule : Prop :=
  ∀ s : State, s.fault = none →
    (¬ s.noHandle →
      exec .txSendComplete s = .next { s with fault := some (.handleViolation .txSendComplete s.hrx s.htx) }) ∧
    (s.noHandle → s.txState = .uninit →
      exec .txSendComplete s = .next { s with fault := some (.notSetup .txSendComplete) }) ∧
    (∀ c : Nat, s.noHandle → s.txState = .ready → s.txCursor = some c → s.txClaim.map Claim.slot ≠ some c →
      exec .txSendComplete s = .next { s with fault := some .txNoClaim }) ∧
    (∀ (c : Nat) (L : Layout), s.noHandle → s.txState = .ready → s.txCursor = some c →
      s.txClaim.map Claim.slot = some c → s.layout = some L →
      exec .txSendComplete s = .next { s with
        res := some ((BitVec.ofNat 32 (L.txd.pa + 8 * c)).setWidth 64), txCursor := some ((c + 1) % s.cfg.n),
        txClaim := none, st := some .ok, pc := s.pc + 1 })

/-- 43_dummy_tx.md R230: `DUMMY_SETUP` writes the two words of the dummy record, and no other byte. -/
def Obligations.DummySetupRule : Prop :=
  ∀ s : State, s.fault = none →
    (¬ s.noHandle → exec .dummySetup s = .next { s with fault := some (.handleViolation .dummySetup s.hrx s.htx) }) ∧
    (s.noHandle → s.layoutSet = false → exec .dummySetup s = .next { s with fault := some (.notSetup .dummySetup) }) ∧
    (s.noHandle → s.layoutSet = true → s.dmyState = .ready →
      exec .dummySetup s = .next { s with fault := some (.setupTwice .dummySetup) }) ∧
    (∀ L : Layout, s.noHandle → s.layoutSet = true → s.dmyState = .uninit → s.layout = some L →
      L.dmy.off + 8 ≤ s.cfg.size →
      ∃ m : Memory, exec .dummySetup s = .next { s with
          mem := m, dmyState := .ready, st := some .ok, pc := s.pc + 1 } ∧
        m.readWord L.dmy.off = some 0 ∧ m.readWord (L.dmy.off + 4) = some 0xC0000000 ∧
        ∀ a, a < L.dmy.off ∨ L.dmy.off + 8 ≤ a → m.read a = s.mem.read a)

/-- 44_driver.md R257 and 10_state.md R64: on an accepted configuration `DRV_INIT` leaves the state its rule lists;
where its `LAYOUT` step faults it raises that fault and changes nothing else. That the fault keeps the information
it has as `LAYOUT`'s is the model's inference (log 11). -/
def Obligations.DrvInitRule : Prop :=
  ∀ s : State, s.fault = none →
    (¬ s.noHandle → exec .drvInit s = .next { s with fault := some (.handleViolation .drvInit s.hrx s.htx) }) ∧
    (∀ r, s.noHandle → exec .layout s = .next { s with fault := some r } →
      exec .drvInit s = .next { s with fault := some r }) ∧
    (s.noHandle → s.layoutSet = false → s.rxState = .uninit → s.txState = .uninit → s.dmyState = .uninit →
      s.rxqSet = false → s.txqSet = false → s.txq1Set = false → layoutAccepts s.cfg →
      ∀ L, L = layoutFor s.cfg →
      ∃ m : Memory, exec .drvInit s = .next { s with
          layout := some L, layoutSet := true, mem := m,
          rxState := .ready, txState := .ready, dmyState := .ready,
          rxCursor := some 0, txCursor := some 0, rxBorrow := none, txClaim := none,
          rxqBase := some (BitVec.ofNat 32 L.rxd.pa), txqBase := some (BitVec.ofNat 32 L.txd.pa),
          txq1Base := some (BitVec.ofNat 32 L.dmy.pa), rxqSet := true, txqSet := true, txq1Set := true,
          hwRxIdx := some 0, hwTxIdx := some 0, rxEnabled := true, txRunning := false,
          st := some .ok, pc := s.pc + 1 } ∧
        (∀ i < s.cfg.n,
          m.readWord (L.rxd.off + 4 * i) = some ((BitVec.ofNat 32 (L.rxb.pa + i * s.cfg.mtu) &&& 0xFFFFFFFC) |||
            (if i + 1 = s.cfg.n then 0x00000002 else 0)) ∧
          m.readWord (L.txd.off + 8 * i) = some (BitVec.ofNat 32 (L.txb.pa + i * s.cfg.mtu)) ∧
          m.readWord (L.txd.off + 8 * i + 4) = some (if i + 1 = s.cfg.n then 0xC0000000 else 0x80000000)) ∧
        m.readWord L.dmy.off = some 0 ∧ m.readWord (L.dmy.off + 4) = some 0xC0000000)

/-- `INIT_SEQ`, issued command by command, has the effect of `DRV_INIT` but for `pc`, which passes seven commands
(30_encoding.md R132). -/
def Obligations.InitSeqIsDrvInit : Prop :=
  ∀ s t : State, exec .drvInit s = .next t → t.fault = none →
    execList ((Pseudo.initSeq).expand (layoutFor s.cfg)) s = .next { t with pc := s.pc + 7 }

/-- 44_driver.md R242: `DRV_RECEIVE` hands out both handles when both cursor slots are software's, else answers
`NOT_READY`. -/
def Obligations.DrvReceiveRule : Prop :=
  ∀ s : State, s.fault = none →
    (¬ s.noHandle → exec .drvReceive s = .next { s with fault := some (.handleViolation .drvReceive s.hrx s.htx) }) ∧
    (s.noHandle → s.constructed = false → exec .drvReceive s = .next { s with fault := some (.notSetup .drvReceive) }) ∧
    (∀ (c p : Nat) (L : Layout) (rw tw : Word), s.noHandle → s.constructed = true → s.rxCursor = some c →
      s.txCursor = some p → s.layout = some L → L.rxd.off + 4 * c + 4 ≤ s.cfg.size →
      s.mem.readWord (L.rxd.off + 4 * c) = some rw → L.txd.off + 8 * p + 8 ≤ s.cfg.size →
      s.mem.readWord (L.txd.off + 8 * p + 4) = some tw →
      (rw.getLsbD 0 = true ∧ tw.getLsbD 31 = true → exec .drvReceive s = .next { s with
        hrx := .live, htx := .live, st := some .ok, pc := s.pc + 1 }) ∧
      (¬ (rw.getLsbD 0 = true ∧ tw.getLsbD 31 = true) →
        exec .drvReceive s = .next { s with st := some .notReady, pc := s.pc + 1 }))

/-- 44_driver.md R243: `DRV_TRANSMIT` hands out the transmit handle when the TX cursor slot is software's, else
answers `NOT_READY`. -/
def Obligations.DrvTransmitRule : Prop :=
  ∀ s : State, s.fault = none →
    (¬ s.noHandle →
      exec .drvTransmit s = .next { s with fault := some (.handleViolation .drvTransmit s.hrx s.htx) }) ∧
    (s.noHandle → s.constructed = false →
      exec .drvTransmit s = .next { s with fault := some (.notSetup .drvTransmit) }) ∧
    (∀ (p : Nat) (L : Layout) (tw : Word), s.noHandle → s.constructed = true → s.txCursor = some p →
      s.layout = some L → L.txd.off + 8 * p + 8 ≤ s.cfg.size → s.mem.readWord (L.txd.off + 8 * p + 4) = some tw →
      (tw.getLsbD 31 = true →
        exec .drvTransmit s = .next { s with htx := .live, st := some .ok, pc := s.pc + 1 }) ∧
      (tw.getLsbD 31 = false → exec .drvTransmit s = .next { s with st := some .notReady, pc := s.pc + 1 }))

/-- 44_driver.md R244: `RXH_BEGIN` needs a live receive handle and no active transmit handle; then it does what
`RX_RECV_NEXT` does without its handle check, and the handle is active. What `NOT_SETUP` and `RX_BORROW_OPEN` name
here is the model's inference (logs 11 and 12). -/
def Obligations.RxhBeginRule : Prop :=
  ∀ s : State, s.fault = none →
    (s.hrx ≠ .live ∨ s.htx = .active →
      exec .rxhBegin s = .next { s with fault := some (.handleViolation .rxhBegin s.hrx s.htx) }) ∧
    (s.hrx = .live → s.htx ≠ .active → s.rxState = .uninit →
      exec .rxhBegin s = .next { s with fault := some (.notSetup .rxRecvNext) }) ∧
    (∀ b, s.hrx = .live → s.htx ≠ .active → s.rxState = .ready → s.rxBorrow = some b →
      exec .rxhBegin s = .next { s with fault := some (.rxBorrowOpen b) }) ∧
    (∀ (c : Nat) (L : Layout) (w : Word), s.hrx = .live → s.htx ≠ .active → s.rxState = .ready → s.rxBorrow = none →
      s.rxCursor = some c → s.layout = some L → L.rxd.off + 4 * c + 4 ≤ s.cfg.size →
      s.mem.readWord (L.rxd.off + 4 * c) = some w →
      (w.getLsbD 0 = false → exec .rxhBegin s = .next { s with fault := some (.rxRecvNotReady c) }) ∧
      (w.getLsbD 0 = true → exec .rxhBegin s = .next { s with
        rxBorrow := some c, res := some (BitVec.ofNat 64 (L.rxb.va + c * s.cfg.mtu)), st := some .ok,
        hrx := .active, pc := s.pc + 1 }))

/-- 44_driver.md R245: `RXH_END r` needs an active receive handle; then it does what `RX_MARK_DONE` does without its
handle check, uses the handle up and answers `r`. The command `NOT_SETUP` names here is the model's inference (log
11). -/
def Obligations.RxhEndRule : Prop :=
  ∀ (s : State) (r : Word), s.fault = none →
    (s.hrx ≠ .active →
      exec (.rxhEnd r) s = .next { s with fault := some (.handleViolation (.rxhEnd r) s.hrx s.htx) }) ∧
    (s.hrx = .active → s.rxState = .uninit →
      exec (.rxhEnd r) s = .next { s with fault := some (.notSetup .rxMarkDone) }) ∧
    (∀ (c : Nat) (L : Layout) (w : Word), s.hrx = .active → s.rxState = .ready → s.rxCursor = some c →
      s.layout = some L → L.rxd.off + 4 * c + 4 ≤ s.cfg.size → s.mem.readWord (L.rxd.off + 4 * c) = some w →
      (w.getLsbD 0 = false → exec (.rxhEnd r) s = .next { s with fault := some (.rxDoneNotReady c) }) ∧
      (w.getLsbD 0 = true → exec (.rxhEnd r) s = .next { s with
        mem := s.mem.writeWord (L.rxd.off + 4 * c) (w &&& 0xFFFFFFFE), rxBorrow := none,
        rxCursor := some ((c + 1) % s.cfg.n), hrx := .none, res := some (r.setWidth 64), st := some .ok,
        pc := s.pc + 1 }))

/-- 44_driver.md R247, R248: `TXH_BEGIN len` needs a live transmit handle and no active receive handle; a longer
`len` is cut to `MTU` and marked under `TRUNCATE`, and under `REJECT` uses the handle up with `st = REJECTED`;
otherwise it does what `TX_GET_NEXT_BUFFER` does without its handle check. What `NOT_SETUP` and `TX_CLAIM_PENDING`
name here is the model's inference (logs 11 and 12). -/
def Obligations.TxhBeginRule : Prop :=
  ∀ (s : State) (len : Word), s.fault = none →
    (s.htx ≠ .live ∨ s.hrx = .active →
      exec (.txhBegin len) s = .next { s with fault := some (.handleViolation (.txhBegin len) s.hrx s.htx) }) ∧
    (s.htx = .live → s.hrx ≠ .active → s.cfg.mtu < len.toNat → s.cfg.oversizePolicy = .reject →
      exec (.txhBegin len) s = .next { s with htx := .none, st := some .rejected, pc := s.pc + 1 }) ∧
    (∀ n : Nat, s.htx = .live → s.hrx ≠ .active →
      (len.toNat ≤ s.cfg.mtu ∧ n = len.toNat) ∨
        (s.cfg.mtu < len.toNat ∧ s.cfg.oversizePolicy = .truncate ∧ n = s.cfg.mtu) →
      (s.txState = .uninit →
        exec (.txhBegin len) s = .next { s with fault := some (.notSetup (.txGetNextBuffer (BitVec.ofNat 32 n))) }) ∧
      (∀ k, s.txState = .ready → s.txClaim = some k →
        exec (.txhBegin len) s = .next { s with fault := some (.txClaimPending k.slot) }) ∧
      (∀ (c : Nat) (L : Layout) (w : Word), s.txState = .ready → s.txClaim = none → s.txCursor = some c →
        s.layout = some L → L.txd.off + 8 * c + 8 ≤ s.cfg.size → s.mem.readWord (L.txd.off + 8 * c + 4) = some w →
        (w.getLsbD 31 = false → exec (.txhBegin len) s = .next { s with fault := some (.txSlotNotFree c) }) ∧
        (w.getLsbD 31 = true → exec (.txhBegin len) s = .next { s with
          mem := s.mem.writeWord (L.txd.off + 8 * c + 4)
            ((w &&& 0x40000000) ||| 0x00008000 ||| BitVec.ofNat 32 n),
          txClaim := some { slot := c, len := n }, htx := .active,
          oversizeMarker := s.oversizeMarker || decide (s.cfg.mtu < len.toNat),
          res := some (BitVec.ofNat 64 (L.txb.va + c * s.cfg.mtu)), st := some .ok, pc := s.pc + 1 })))

/-- 44_driver.md R249: `TXH_END r` needs an active transmit handle; then it does what `TX_SEND_COMPLETE` does
without its handle check, kicks with the address that gives, uses the handle up and answers `r`. The command
`NOT_SETUP` names here is the model's inference (log 11). -/
def Obligations.TxhEndRule : Prop :=
  ∀ (s : State) (r : Word), s.fault = none →
    (s.htx ≠ .active →
      exec (.txhEnd r) s = .next { s with fault := some (.handleViolation (.txhEnd r) s.hrx s.htx) }) ∧
    (s.htx = .active → s.txState = .uninit →
      exec (.txhEnd r) s = .next { s with fault := some (.notSetup .txSendComplete) }) ∧
    (∀ c : Nat, s.htx = .active → s.txState = .ready → s.txCursor = some c →
      (s.txClaim.map Claim.slot ≠ some c → exec (.txhEnd r) s = .next { s with fault := some .txNoClaim }) ∧
      (∀ L : Layout, s.txClaim.map Claim.slot = some c → s.layout = some L →
        (s.txqSet = false → exec (.txhEnd r) s = .next { s with fault := some .devNotProgrammed }) ∧
        (s.txqSet = true → L.txd.pa + 8 * c < 2 ^ 32 →
          (s.cfg.n ≤ c → exec (.txhEnd r) s =
            .next { s with fault := some (.kickBadAddr (BitVec.ofNat 32 (L.txd.pa + 8 * c))) }) ∧
          (c < s.cfg.n → exec (.txhEnd r) s = .next { s with
            txCursor := some ((c + 1) % s.cfg.n), txClaim := none, txRunning := true, htx := .none,
            res := some (r.setWidth 64), st := some .ok, pc := s.pc + 1 }))))

/-- 44_driver.md R250: `HANDLE_DROP` releases the named handle when it is live. -/
def Obligations.HandleDropRule : Prop :=
  ∀ s : State, s.fault = none →
    (s.hrx ≠ .live →
      exec (.handleDrop .rx) s = .next { s with fault := some (.handleViolation (.handleDrop .rx) s.hrx s.htx) }) ∧
    (s.htx ≠ .live →
      exec (.handleDrop .tx) s = .next { s with fault := some (.handleViolation (.handleDrop .tx) s.hrx s.htx) }) ∧
    (s.hrx = .live → exec (.handleDrop .rx) s = .next { s with hrx := .none, st := some .ok, pc := s.pc + 1 }) ∧
    (s.htx = .live → exec (.handleDrop .tx) s = .next { s with htx := .none, st := some .ok, pc := s.pc + 1 })

/-- 44_driver.md R254, R255 and 45_dma_engine.md R299: the classification of the completion flags, receive first; the
capabilities word; and the clearing of both flags: in every state, and nothing else changes. -/
def Obligations.IrqAndCapsRule : Prop :=
  ∀ s : State, s.fault = none →
    exec .drvClassifyIrq s = .next { s with
      res := some (if s.rxComplete then 1 else if s.txComplete then 2 else 0), st := some .ok, pc := s.pc + 1 } ∧
    exec .drvCaps s = .next { s with
      res := some (BitVec.ofNat 64 (s.cfg.mtu ||| (1 <<< 16) ||| (1 <<< 24))), st := some .ok, pc := s.pc + 1 } ∧
    exec .devClearIrq s = .next { s with rxComplete := false, txComplete := false, pc := s.pc + 1 }

/-- 44_driver.md R252: `BUF_RD` reads one byte of the open slice; outside it, or with none open, it raises
`BUF_OUT_OF_SLICE`, and on a byte nothing has written `READ_UNWRITTEN`. -/
def Obligations.BufRdRule : Prop :=
  ∀ (s : State) (off : BitVec 16), s.fault = none →
    (s.rxBorrow = none ∨ s.cfg.mtu ≤ off.toNat →
      exec (.bufRd .rx off) s = .next { s with fault := some (.bufOutOfSlice .rx off.toNat) }) ∧
    ((∀ k, s.txClaim = some k → k.len ≤ off.toNat) →
      exec (.bufRd .tx off) s = .next { s with fault := some (.bufOutOfSlice .tx off.toNat) }) ∧
    (∀ (ring : Ring) (L : Layout) (a : Nat), s.layout = some L →
      (∃ i, ring = .rx ∧ s.rxBorrow = some i ∧ off.toNat < s.cfg.mtu ∧ a = L.rxb.off + s.cfg.mtu * i + off.toNat) ∨
        (∃ k, ring = .tx ∧ s.txClaim = some k ∧ off.toNat < k.len ∧
          a = L.txb.off + s.cfg.mtu * k.slot + off.toNat) →
      a < s.cfg.size →
      (s.mem.read a = none →
        exec (.bufRd ring off) s = .next { s with fault := some (.readUnwritten (.region a)) }) ∧
      (∀ b, s.mem.read a = some b → exec (.bufRd ring off) s = .next { s with
        res := some (b.setWidth 64), st := some .ok, pc := s.pc + 1 }))

/-- 44_driver.md R253: `BUF_WR` writes one byte of the open slice and no other; outside it, or with none open, it
raises `BUF_OUT_OF_SLICE`. -/
def Obligations.BufWrRule : Prop :=
  ∀ (s : State) (off : BitVec 16) (b : Byte), s.fault = none →
    (s.rxBorrow = none ∨ s.cfg.mtu ≤ off.toNat →
      exec (.bufWr .rx off b) s = .next { s with fault := some (.bufOutOfSlice .rx off.toNat) }) ∧
    ((∀ k, s.txClaim = some k → k.len ≤ off.toNat) →
      exec (.bufWr .tx off b) s = .next { s with fault := some (.bufOutOfSlice .tx off.toNat) }) ∧
    (∀ (ring : Ring) (L : Layout) (a : Nat), s.layout = some L →
      (∃ i, ring = .rx ∧ s.rxBorrow = some i ∧ off.toNat < s.cfg.mtu ∧ a = L.rxb.off + s.cfg.mtu * i + off.toNat) ∨
        (∃ k, ring = .tx ∧ s.txClaim = some k ∧ off.toNat < k.len ∧
          a = L.txb.off + s.cfg.mtu * k.slot + off.toNat) →
      a < s.cfg.size →
      ∃ m : Memory, exec (.bufWr ring off b) s = .next { s with mem := m, st := some .ok, pc := s.pc + 1 } ∧
        m.read a = some b ∧ ∀ x, x ≠ a → m.read x = s.mem.read x)

/-- 45_dma_engine.md R290 to R292: each `DEV_SET_*` command makes its checks in order, then writes its register and
what goes with it; none writes `res` or `st`. -/
def Obligations.DevSetBaseRule : Prop :=
  ∀ (s : State) (pa : Word), s.fault = none →
    (¬ s.noHandle →
      exec (.devSetRxqBase pa) s = .next { s with fault := some (.handleViolation (.devSetRxqBase pa) s.hrx s.htx) } ∧
      exec (.devSetTxqBase pa) s = .next { s with fault := some (.handleViolation (.devSetTxqBase pa) s.hrx s.htx) } ∧
      exec (.devSetTxq1Base pa) s =
        .next { s with fault := some (.handleViolation (.devSetTxq1Base pa) s.hrx s.htx) }) ∧
    (s.noHandle → s.rxqSet = true →
      exec (.devSetRxqBase pa) s = .next { s with fault := some (.setupTwice (.devSetRxqBase pa)) }) ∧
    (s.noHandle → s.rxqSet = false → s.rxState = .uninit →
      exec (.devSetRxqBase pa) s = .next { s with fault := some (.notSetup (.devSetRxqBase pa)) }) ∧
    (∀ L : Layout, s.noHandle → s.rxqSet = false → s.rxState = .ready → s.layout = some L →
      (pa.toNat ≠ L.rxd.pa → exec (.devSetRxqBase pa) s = .next { s with fault := some (.devBadBase .rxq pa) }) ∧
      (pa.toNat = L.rxd.pa → exec (.devSetRxqBase pa) s = .next { s with
        rxqBase := some pa, rxqSet := true, hwRxIdx := some 0, rxEnabled := true, pc := s.pc + 1 })) ∧
    (s.noHandle → s.txqSet = true →
      exec (.devSetTxqBase pa) s = .next { s with fault := some (.setupTwice (.devSetTxqBase pa)) }) ∧
    (s.noHandle → s.txqSet = false → s.txState = .uninit →
      exec (.devSetTxqBase pa) s = .next { s with fault := some (.notSetup (.devSetTxqBase pa)) }) ∧
    (∀ L : Layout, s.noHandle → s.txqSet = false → s.txState = .ready → s.layout = some L →
      (pa.toNat ≠ L.txd.pa → exec (.devSetTxqBase pa) s = .next { s with fault := some (.devBadBase .txq pa) }) ∧
      (pa.toNat = L.txd.pa → exec (.devSetTxqBase pa) s = .next { s with
        txqBase := some pa, txqSet := true, hwTxIdx := some 0, txRunning := false, pc := s.pc + 1 })) ∧
    (s.noHandle → s.txq1Set = true →
      exec (.devSetTxq1Base pa) s = .next { s with fault := some (.setupTwice (.devSetTxq1Base pa)) }) ∧
    (s.noHandle → s.txq1Set = false → s.dmyState = .uninit →
      exec (.devSetTxq1Base pa) s = .next { s with fault := some (.notSetup (.devSetTxq1Base pa)) }) ∧
    (∀ L : Layout, s.noHandle → s.txq1Set = false → s.dmyState = .ready → s.layout = some L →
      (pa.toNat ≠ L.dmy.pa → exec (.devSetTxq1Base pa) s = .next { s with fault := some (.devBadBase .txq1 pa) }) ∧
      (pa.toNat = L.dmy.pa → exec (.devSetTxq1Base pa) s = .next { s with
        txq1Base := some pa, txq1Set := true, pc := s.pc + 1 }))

/-- 45_dma_engine.md R293: `DEV_KICK` sets the transmit engine running and changes nothing else; the address must be
that of a TX descriptor, and the TX base register must be set. A handle may be held. -/
def Obligations.DevKickRule : Prop :=
  ∀ (s : State) (pa : Word), s.fault = none →
    (s.txqSet = false → exec (.devKick pa) s = .next { s with fault := some .devNotProgrammed }) ∧
    (∀ L : Layout, s.txqSet = true → s.layout = some L →
      ((∀ i < s.cfg.n, pa.toNat ≠ L.txd.pa + 8 * i) →
        exec (.devKick pa) s = .next { s with fault := some (.kickBadAddr pa) }) ∧
      (∀ i < s.cfg.n, pa.toNat = L.txd.pa + 8 * i →
        exec (.devKick pa) s = .next { s with txRunning := true, pc := s.pc + 1 }))

/-- 45_dma_engine.md R309, R310: a harness command sets one ownership bit of the slot it names and changes nothing
else; without `HARNESS`, or with `idx` not below `N`, its word is illegal. -/
def Obligations.HarnessRule : Prop :=
  ∀ (s : State) (idx : Word), s.fault = none →
    (s.cfg.harness = false ∨ s.cfg.n ≤ idx.toNat →
      exec (.simRxSetOwn idx) s =
        .next { s with fault := some (.illegalCommand (encode (.simRxSetOwn idx))) } ∧
      exec (.simTxSetOwn idx) s =
        .next { s with fault := some (.illegalCommand (encode (.simTxSetOwn idx))) }) ∧
    (s.cfg.harness = true → idx.toNat < s.cfg.n →
      (s.rxState = .uninit →
        exec (.simRxSetOwn idx) s = .next { s with fault := some (.notSetup (.simRxSetOwn idx)) }) ∧
      (s.txState = .uninit →
        exec (.simTxSetOwn idx) s = .next { s with fault := some (.notSetup (.simTxSetOwn idx)) }) ∧
      (∀ (L : Layout) (w : Word), s.rxState = .ready → s.layout = some L →
        L.rxd.off + 4 * idx.toNat + 4 ≤ s.cfg.size → s.mem.readWord (L.rxd.off + 4 * idx.toNat) = some w →
        exec (.simRxSetOwn idx) s = .next { s with
          mem := s.mem.writeWord (L.rxd.off + 4 * idx.toNat) (w ||| 1), pc := s.pc + 1 }) ∧
      (∀ (L : Layout) (w : Word), s.txState = .ready → s.layout = some L →
        L.txd.off + 8 * idx.toNat + 8 ≤ s.cfg.size → s.mem.readWord (L.txd.off + 8 * idx.toNat + 4) = some w →
        exec (.simTxSetOwn idx) s = .next { s with
          mem := s.mem.writeWord (L.txd.off + 8 * idx.toNat + 4) (w ||| 0x80000000), pc := s.pc + 1 }))

/-- 45_dma_engine.md R302, R303: where its guard holds `DMA_RX_FRAME` checks the buffer address and the advance,
then stores `MTU` bytes (the pinned ones first, the rest any bytes), sets the ownership bit, moves on and sets
`rx_complete`. The pinned bytes are the model's form of the draw (log 7), and `N <= h + 1` its reading of the
off-table test (log 19). -/
def Obligations.DmaRxFrameRule : Prop :=
  ∀ (s : State) (h : Nat) (L : Layout) (w : Word) (a : Nat), s.fault = none → s.rxEnabled = true →
    s.hwRxIdx = some h → s.layout = some L → L.rxd.off + 4 * h + 4 ≤ s.cfg.size →
    s.mem.readWord (L.rxd.off + 4 * h) = some w → w.getLsbD 0 = false → a = (w &&& 0xFFFFFFFC).toNat →
    (a < s.cfg.paBase ∨ s.cfg.paBase + s.cfg.size < a + s.cfg.mtu →
      exec .dmaRxFrame s = .next { s with fault := some (.dmaAddrOutOfRegion .rx a) }) ∧
    (s.cfg.paBase ≤ a → a + s.cfg.mtu ≤ s.cfg.paBase + s.cfg.size →
      (w.getLsbD 1 = false → s.cfg.n ≤ h + 1 →
        exec .dmaRxFrame s = .next { s with fault := some (.dmaOffTable .rx h) }) ∧
      (w.getLsbD 1 = true ∨ h + 1 < s.cfg.n →
        ∃ data : List Byte, data.length = s.cfg.mtu ∧
          (∀ (j : Nat) (b : Byte), j < s.cfg.mtu → s.draw.data[j]? = some b → data[j]? = some b) ∧
          exec .dmaRxFrame s = .next { s with
            mem := (s.mem.store (a - s.cfg.paBase) data).writeWord (L.rxd.off + 4 * h) (w ||| 1),
            hwRxIdx := some (if w.getLsbD 1 then 0 else h + 1), rxComplete := true }))

/-- 45_dma_engine.md R301: a frame that arrives while the head slot is software's is dropped: nothing changes. -/
def Obligations.DmaRxDropRule : Prop :=
  ∀ (s : State) (h : Nat) (L : Layout) (w : Word), s.fault = none → s.rxEnabled = true → s.hwRxIdx = some h →
    s.layout = some L → L.rxd.off + 4 * h + 4 ≤ s.cfg.size → s.mem.readWord (L.rxd.off + 4 * h) = some w →
    w.getLsbD 0 = true → exec .dmaRxDrop s = .next s

/-- 45_dma_engine.md R305, R306: where its guard holds `DMA_TX_FRAME` refuses a claimed slot, checks the buffer
address and the advance, then sends the bytes the buffer holds (any byte where none was written), sets `USED`,
replaces `STAT` by the drawn bits, moves on and sets `tx_complete`. The pinned status bits and the bytes nothing has
written are the model's form of the draws (logs 8 and 9), and `N <= t + 1` its reading of the off-table test (log
19). -/
def Obligations.DmaTxFrameRule : Prop :=
  ∀ (s : State) (t : Nat) (L : Layout) (w aw : Word) (n a : Nat), s.fault = none → s.txRunning = true →
    s.hwTxIdx = some t → s.layout = some L → L.txd.off + 8 * t + 8 ≤ s.cfg.size →
    s.mem.readWord (L.txd.off + 8 * t + 4) = some w → w.getLsbD 31 = false →
    s.mem.readWord (L.txd.off + 8 * t) = some aw → n = (w &&& 0x00003FFF).toNat → a = aw.toNat →
    (s.txClaim.map Claim.slot = some t →
      exec .dmaTxFrame s = .next { s with fault := some (.txDmaBeforeCommit t) }) ∧
    (s.txClaim.map Claim.slot ≠ some t →
      (a < s.cfg.paBase ∨ s.cfg.paBase + s.cfg.size < a + n →
        exec .dmaTxFrame s = .next { s with fault := some (.dmaAddrOutOfRegion .tx a) }) ∧
      (s.cfg.paBase ≤ a → a + n ≤ s.cfg.paBase + s.cfg.size →
        (w.getLsbD 30 = false → s.cfg.n ≤ t + 1 →
          exec .dmaTxFrame s = .next { s with fault := some (.dmaOffTable .tx t) }) ∧
        (w.getLsbD 30 = true ∨ t + 1 < s.cfg.n →
          ∃ (frame : List Byte) (stat : BitVec 14), frame.length = n ∧
            (∀ (j : Nat) (b : Byte), j < n → s.mem.read (a - s.cfg.paBase + j) = some b → frame[j]? = some b) ∧
            (∀ v, s.draw.stat = some v → stat = v) ∧
            exec .dmaTxFrame s = .next { s with
              mem := s.mem.writeWord (L.txd.off + 8 * t + 4)
                ((w &&& 0xC000FFFF) ||| 0x80000000 ||| (stat.setWidth 32 <<< 16)),
              wireTx := s.wireTx ++ [frame], hwTxIdx := some (if w.getLsbD 30 then 0 else t + 1),
              txComplete := true })))

/-- 45_dma_engine.md R307: the running engine stops at a descriptor software owns; its position does not move. -/
def Obligations.DmaTxStopRule : Prop :=
  ∀ (s : State) (t : Nat) (L : Layout) (w : Word), s.fault = none → s.txRunning = true → s.hwTxIdx = some t →
    s.layout = some L → L.txd.off + 8 * t + 8 ≤ s.cfg.size → s.mem.readWord (L.txd.off + 8 * t + 4) = some w →
    w.getLsbD 31 = true → exec .dmaTxStop s = .next { s with txRunning := false }

/-- 44_driver.md R241: while a handle is held every mutating command raises `HANDLE_VIOLATION`, whatever else is
wrong. -/
def Obligations.HandlesAreExclusive : Prop :=
  ∀ (i : Instr) (s : State), s.fault = none → i.mutating = true → ¬ s.noHandle →
    exec i s = .next { s with fault := some (.handleViolation i s.hrx s.htx) }

/-- Frame of the pure queries (44_driver.md R256): a query writes at most `res`, `st` and `pc`; no ring state and no
byte of memory changes. -/
def Obligations.FrameOfQueries : Prop :=
  ∀ (i : Instr) (s t : State),
    (i = .rxAvail ∨ i = .txAvail ∨ i = .drvCaps ∨ i = .drvClassifyIrq ∨ ∃ ring off, i = .bufRd ring off) →
    exec i s = .next t →
    (t.fault = none → t = { s with res := t.res, st := some .ok, pc := s.pc + 1 }) ∧
    (∀ r, t.fault = some r → t = { s with fault := some r }) ∧
    ∀ a, t.mem.read a = s.mem.read a

/-- Frame of the commands that move handles, cursors, borrows and claims and store nothing: each writes only the
fields named, and no byte of memory changes. -/
def Obligations.FrameOfHandleCommands : Prop :=
  ∀ (i : Instr) (s t : State), exec i s = .next t → t.fault = none →
    ((i = .rxRecvNext → t = { s with
        rxBorrow := t.rxBorrow, res := t.res, st := some .ok, pc := s.pc + 1 }) ∧
      (i = .rxhBegin → t = { s with
        rxBorrow := t.rxBorrow, res := t.res, st := some .ok, hrx := .active, pc := s.pc + 1 }) ∧
      (i = .txSendComplete → t = { s with
        txCursor := t.txCursor, txClaim := none, res := t.res, st := some .ok, pc := s.pc + 1 }) ∧
      (∀ r, i = .txhEnd r → t = { s with
        txCursor := t.txCursor, txClaim := none, txRunning := true, htx := .none, res := t.res, st := some .ok,
        pc := s.pc + 1 }) ∧
      (i = .drvReceive → t = { s with hrx := t.hrx, htx := t.htx, st := t.st, pc := s.pc + 1 }) ∧
      (i = .drvTransmit → t = { s with htx := t.htx, st := t.st, pc := s.pc + 1 }) ∧
      (i = .handleDrop .rx → t = { s with hrx := .none, st := some .ok, pc := s.pc + 1 }) ∧
      (i = .handleDrop .tx → t = { s with htx := .none, st := some .ok, pc := s.pc + 1 })) ∧
    ((i = .rxRecvNext ∨ i = .rxhBegin ∨ i = .txSendComplete ∨ (∃ r, i = .txhEnd r) ∨ i = .drvReceive ∨
        i = .drvTransmit ∨ ∃ which, i = .handleDrop which) →
      ∀ a, t.mem.read a = s.mem.read a)

/-- Frame of the device commands: each writes only the registers named, never `res`, `st` (10_state.md R32) or a byte
of memory. -/
def Obligations.FrameOfDeviceCommands : Prop :=
  ∀ (i : Instr) (s t : State), exec i s = .next t → t.fault = none →
    ((∀ pa, i = .devSetRxqBase pa → t = { s with
        rxqBase := t.rxqBase, rxqSet := true, hwRxIdx := some 0, rxEnabled := true, pc := s.pc + 1 }) ∧
      (∀ pa, i = .devSetTxqBase pa → t = { s with
        txqBase := t.txqBase, txqSet := true, hwTxIdx := some 0, txRunning := false, pc := s.pc + 1 }) ∧
      (∀ pa, i = .devSetTxq1Base pa → t = { s with txq1Base := t.txq1Base, txq1Set := true, pc := s.pc + 1 }) ∧
      (∀ pa, i = .devKick pa → t = { s with txRunning := true, pc := s.pc + 1 }) ∧
      (i = .devClearIrq → t = { s with rxComplete := false, txComplete := false, pc := s.pc + 1 })) ∧
    (((∃ pa, i = .devSetRxqBase pa ∨ i = .devSetTxqBase pa ∨ i = .devSetTxq1Base pa ∨ i = .devKick pa) ∨
        i = .devClearIrq) →
      ∀ a, t.mem.read a = s.mem.read a)

/-- Frame of the commands that store one descriptor word or one buffer byte: beside the fields named, the only bytes
that change are those at the address the rule computes. -/
def Obligations.FrameOfStores : Prop :=
  ∀ (i : Instr) (s t : State) (L : Layout), exec i s = .next t → t.fault = none → s.layout = some L →
    (∀ c, s.rxCursor = some c → (i = .rxMarkDone ∨ ∃ r, i = .rxhEnd r) →
      t = { s with
        mem := t.mem, rxBorrow := none, rxCursor := t.rxCursor, hrx := t.hrx, res := t.res, st := some .ok,
        pc := s.pc + 1 } ∧
      (i = .rxMarkDone → t.hrx = s.hrx ∧ t.res = s.res) ∧
      ∀ a, a < L.rxdOff c ∨ L.rxdOff c + 4 ≤ a → t.mem.read a = s.mem.read a) ∧
    (∀ c, s.txCursor = some c → (∃ len, i = .txGetNextBuffer len ∨ i = .txhBegin len) →
      t = { s with
        mem := t.mem, txClaim := t.txClaim, htx := t.htx, oversizeMarker := t.oversizeMarker, res := t.res,
        st := t.st, pc := s.pc + 1 } ∧
      ((∃ len, i = .txGetNextBuffer len) → t.htx = s.htx ∧ t.oversizeMarker = s.oversizeMarker) ∧
      (t.st = some .rejected → t.mem = s.mem ∧ t.txClaim = s.txClaim ∧ t.res = s.res) ∧
      ∀ a, a < L.txd1Off c ∨ L.txd1Off c + 4 ≤ a → t.mem.read a = s.mem.read a) ∧
    (∀ idx : Word, i = .simRxSetOwn idx →
      t = { s with mem := t.mem, pc := s.pc + 1 } ∧
      ∀ a, a < L.rxdOff idx.toNat ∨ L.rxdOff idx.toNat + 4 ≤ a → t.mem.read a = s.mem.read a) ∧
    (∀ idx : Word, i = .simTxSetOwn idx →
      t = { s with mem := t.mem, pc := s.pc + 1 } ∧
      ∀ a, a < L.txd1Off idx.toNat ∨ L.txd1Off idx.toNat + 4 ≤ a → t.mem.read a = s.mem.read a) ∧
    (∀ (ring : Ring) (off : BitVec 16) (b : Byte) (k : Nat), i = .bufWr ring off b →
      sliceSlot? ring off.toNat s.cfg.mtu s.rxBorrow s.txClaim = some k →
      t = { s with mem := t.mem, st := some .ok, pc := s.pc + 1 } ∧
      ∀ a, a ≠ L.slotOff ring s.cfg.mtu k + off.toNat → t.mem.read a = s.mem.read a)

/-- Frame of the construction commands: beside the fields named, the only bytes that change are those of the
tables the command sets up. -/
def Obligations.FrameOfConstruction : Prop :=
  ∀ (i : Instr) (s t : State) (L : Layout), exec i s = .next t → t.fault = none → t.layout = some L →
    (i = .layout → t = { s with layout := some L, layoutSet := true, st := some .ok, pc := s.pc + 1 } ∧
      ∀ a, t.mem.read a = s.mem.read a) ∧
    (i = .rxSetup → t = { s with
        mem := t.mem, rxCursor := some 0, rxBorrow := none, rxState := .ready, st := some .ok, pc := s.pc + 1 } ∧
      ∀ a, a < L.rxdOff 0 ∨ L.rxdOff s.cfg.n ≤ a → t.mem.read a = s.mem.read a) ∧
    (i = .txSetup → t = { s with
        mem := t.mem, txCursor := some 0, txClaim := none, txState := .ready, st := some .ok, pc := s.pc + 1 } ∧
      ∀ a, a < L.txd0Off 0 ∨ L.txd0Off s.cfg.n ≤ a → t.mem.read a = s.mem.read a) ∧
    (i = .dummySetup → t = { s with mem := t.mem, dmyState := .ready, st := some .ok, pc := s.pc + 1 } ∧
      ∀ a, a < L.dmy0Off ∨ L.dmy1Off + 4 ≤ a → t.mem.read a = s.mem.read a) ∧
    (i = .drvInit →
      t.res = s.res ∧ t.hrx = s.hrx ∧ t.htx = s.htx ∧ t.rxComplete = s.rxComplete ∧ t.txComplete = s.txComplete ∧
      t.oversizeMarker = s.oversizeMarker ∧ t.wireTx = s.wireTx ∧ t.agenda = s.agenda ∧ t.turn = s.turn ∧
      t.draw = s.draw ∧
      ∀ a, (a < L.rxdOff 0 ∨ L.rxdOff s.cfg.n ≤ a) → (a < L.txd0Off 0 ∨ L.txd0Off s.cfg.n ≤ a) →
        (a < L.dmy0Off ∨ L.dmy1Off + 4 ≤ a) → t.mem.read a = s.mem.read a)

/-- 45_dma_engine.md R312: what a DMA step never writes. `res`, `st`, `pc`, the layout, the cursors, the borrow, the
claim and the handles are kept, and the only bytes that change are the stored frame's and the ownership word's. -/
def Obligations.FrameOfDmaSteps : Prop :=
  ∀ (s t : State) (L : Layout), t.fault = none → s.layout = some L →
    (exec .dmaRxFrame s = .next t →
      t = { s with mem := t.mem, hwRxIdx := t.hwRxIdx, rxComplete := t.rxComplete } ∧
      ∀ (h : Nat) (w : Word), s.hwRxIdx = some h → s.dmaWord (L.rxdOff h) = .ok w →
        ∀ a, (a < L.rxdOff h ∨ L.rxdOff h + 4 ≤ a) →
          (a < (rxAddr w).toNat - s.cfg.paBase ∨ (rxAddr w).toNat - s.cfg.paBase + s.cfg.mtu ≤ a) →
          t.mem.read a = s.mem.read a) ∧
    (exec .dmaRxDrop s = .next t → t = s) ∧
    (exec .dmaTxFrame s = .next t →
      t = { s with mem := t.mem, hwTxIdx := t.hwTxIdx, wireTx := t.wireTx, txComplete := t.txComplete } ∧
      (∃ frames, t.wireTx = s.wireTx ++ frames) ∧
      ∀ i : Nat, s.hwTxIdx = some i →
        ∀ a, (a < L.txd1Off i ∨ L.txd1Off i + 4 ≤ a) → t.mem.read a = s.mem.read a) ∧
    (exec .dmaTxStop s = .next t → t = { s with txRunning := t.txRunning } ∧ ∀ a, t.mem.read a = s.mem.read a)

/-- Every step keeps the setup order and the legality of what setup writes (70_reset_and_hazards.md R371), memory in
its canonical form and inside the Region. -/
def Obligations.SetupInvariantKept : Prop :=
  ∀ s t : State, SetupInv s → step s = .next t → SetupInv t

/-- 10_state.md R57, R59, 43_dummy_tx.md R231: every step keeps the address and end-of-ring fields of both tables and
the dummy record, harness commands included. -/
def Obligations.RingWordsKept : Prop :=
  ∀ s t : State, SetupInv s → RingWordsInv s → step s = .next t → RingWordsInv t

/-- 10_state.md R58: every step of a run without the harness keeps the RX occupancy invariant. R58 is the spec's own
inference. -/
def Obligations.RxOccupancyKept : Prop :=
  ∀ s t : State, s.cfg.harness = false → SetupInv s → RingWordsInv s → RxOccupancy s → step s = .next t →
    RxOccupancy t

/-- 10_state.md R60: every step of a run without the harness keeps the TX occupancy invariant. R60 is the spec's own
inference. -/
def Obligations.TxOccupancyKept : Prop :=
  ∀ s t : State, s.cfg.harness = false → SetupInv s → RingWordsInv s → TxOccupancy s → step s = .next t →
    TxOccupancy t

/-- A handle reserves its cursor slot until it is used (44_driver.md R244, R247, R251, R260): every step of a run
without the harness keeps that. The invariant is read from those rules by inference. -/
def Obligations.HandlesReserveSlots : Prop :=
  ∀ s t : State, s.cfg.harness = false → RingInv s → step s = .next t → HandleInv t

/-- 10_state.md R62: no DMA step takes a slot from software, on either ring. R62 is the spec's own inference. -/
def Obligations.AvailabilityIsStable : Prop :=
  ∀ (e : DmaEvent) (s t : State), SetupInv s → RingWordsInv s → exec e.toInstr s = .next t →
    ∀ i < s.cfg.n, (s.rxState = .ready → rxOwned s (layoutFor s.cfg) i = true → rxOwned t (layoutFor s.cfg) i = true) ∧
      (s.txState = .ready → txBusy s (layoutFor s.cfg) i = false → txBusy t (layoutFor s.cfg) i = false)

/-- 44_driver.md R251: the only transitions of the two handles, and the commands that make them. R251 is the spec's
own inference. -/
def Obligations.HandleTransitions : Prop :=
  ∀ (i : Instr) (s t : State), exec i s = .next t →
    (t.hrx = s.hrx ∨
      (i = .drvReceive ∧ s.noHandle ∧ t.hrx = .live ∧ t.htx = .live) ∨
      (i = .rxhBegin ∧ s.hrx = .live ∧ t.hrx = .active) ∨
      (i = .handleDrop .rx ∧ s.hrx = .live ∧ t.hrx = .none) ∨
      (∃ r, i = .rxhEnd r ∧ s.hrx = .active ∧ t.hrx = .none)) ∧
    (t.htx = s.htx ∨
      ((i = .drvReceive ∨ i = .drvTransmit) ∧ s.noHandle ∧ t.htx = .live) ∨
      (∃ len, i = .txhBegin len ∧ s.htx = .live ∧ t.htx = .active) ∨
      (∃ len, i = .txhBegin len ∧ s.htx = .live ∧ t.htx = .none ∧ s.cfg.oversizePolicy = .reject ∧
        s.cfg.mtu < len.toNat) ∨
      (i = .handleDrop .tx ∧ s.htx = .live ∧ t.htx = .none) ∨
      (∃ r, i = .txhEnd r ∧ s.htx = .active ∧ t.htx = .none))

/-- 45_dma_engine.md R295, R296: where the tables are as setup wrote them every DMA step completes, and the one fault
it can raise is `TX_DMA_BEFORE_COMMIT`, at a claimed slot under a running engine. -/
def Obligations.DmaStepsComplete : Prop :=
  ∀ (e : DmaEvent) (s : State), s.fault = none → SetupInv s → RingWordsInv s →
    ∃ t, exec e.toInstr s = .next t ∧
      (t.fault = none ∨ ∃ k, e = .txFrame ∧ s.txRunning = true ∧ s.txClaim = some k ∧ s.hwTxIdx = some k.slot ∧
        t.fault = some (.txDmaBeforeCommit k.slot))

/-- 60_exceptions.md R352: where the setup order is respected and the tables and the dummy record are as setup wrote
them, the one instruction that can raise `READ_UNWRITTEN` is `BUF_RD`, of a byte nothing has written. (A DMA step reads
an unwritten buffer byte as a draw and raises nothing: 45_dma_engine.md R297.) R352 is the spec's own inference. -/
def Obligations.OnlyBufRdReadsUnwritten : Prop :=
  ∀ (i : Instr) (s t : State) (u : Unwritten), SetupInv s → RingWordsInv s → exec i s = .next t →
    t.fault = some (.readUnwritten u) →
    ∃ ring off a, i = .bufRd ring off ∧ u = .region a ∧ s.mem.read a = none

/-- 44_driver.md R260: on a valid handle a BEGIN or END command raises no fault; its status is `OK`, or `REJECTED`.
`RXH_BEGIN` is stated where no borrow of a raw `RX_RECV_NEXT` is open (log 21). -/
def Obligations.ValidHandlesSucceed : Prop :=
  ∀ s : State, s.fault = none → RingInv s →
    (s.hrx = .live → s.htx ≠ .active → s.rxBorrow = none →
      ∃ t, exec .rxhBegin s = .next t ∧ t.fault = none ∧ t.st = some .ok) ∧
    (∀ r, s.hrx = .active → ∃ t, exec (.rxhEnd r) s = .next t ∧ t.fault = none ∧ t.st = some .ok) ∧
    (∀ len, s.htx = .live → s.hrx ≠ .active →
      ∃ t, exec (.txhBegin len) s = .next t ∧ t.fault = none ∧ (t.st = some .ok ∨ t.st = some .rejected)) ∧
    (∀ r, s.htx = .active → ∃ t, exec (.txhEnd r) s = .next t ∧ t.fault = none ∧ t.st = some .ok)

/-- 10_state.md R61: where the engine stops, no slot is in flight, no claim is open and the two TX positions agree.
R61 is the spec's own inference. -/
def Obligations.StoppedEngineIsDrained : Prop :=
  ∀ s t : State, RingInv s → s.txRunning = true → exec .dmaTxStop s = .next t → t.txRunning = false →
    txBusyCount t (layoutFor t.cfg) = 0 ∧ t.txClaim = none ∧ t.hwTxIdx = t.txCursor

/-- A running engine with `m` committed frames and no open claim sends them all, in ring order from its own position,
and stops, in `m + 1` steps of its own: the frame appended in place `j` has the length the status word of slot
`(p + j) mod N` gives and holds every written byte of that slot's buffer (45_dma_engine.md R304, R306, R307). The run
is along an agenda, the model's form of the schedule (log 4). -/
def Obligations.RunningEngineDrains : Prop :=
  ∀ (s : State) (m : Nat), s.fault = none → RingInv s → s.txRunning = true → s.txClaim = none →
    txBusyCount s (layoutFor s.cfg) = m →
    s.agenda = List.replicate m (.dma .txFrame Draw.free) ++ [.dma .txStop Draw.free] →
    ∃ (t : State) (p : Nat), Host.Core.run Sys2Proof.core (m + 1) s = .next t ∧ s.hwTxIdx = some p ∧
      t.fault = none ∧ t.txRunning = false ∧ txBusyCount t (layoutFor t.cfg) = 0 ∧ t.hwTxIdx = t.txCursor ∧
      t.wireTx.length = s.wireTx.length + m ∧ t.wireTx.take s.wireTx.length = s.wireTx ∧
      ∀ j < m, ∃ (w : Word) (frame : List Byte),
        s.mem.readWord ((layoutFor s.cfg).txd1Off ((p + j) % s.cfg.n)) = some w ∧
        t.wireTx[s.wireTx.length + j]? = some frame ∧ frame.length = txLen w ∧
        ∀ (k : Nat) (b : Byte), k < txLen w →
          s.mem.read ((layoutFor s.cfg).txbOff s.cfg.mtu ((p + j) % s.cfg.n) + k) = some b → frame[k]? = some b
end

