-- ==== Sys2Proof/Laws/Cyclic.lean ====
section
/-! SUPPORT. Positions on a ring of `n` slots: the distance from one to another, and how a run of consecutive
slots and its count change when a slot joins or leaves it (10_state.md R58, R60). -/

namespace Sys2Proof.Machine

/-- How many slots lie from `c` up to `i`, going round. -/
def ringDist (n c i : Nat) : Nat := if c ≤ i then i - c else i + n - c

theorem mod_eq_ringDist {n c i : Nat} (hc : c < n) (hi : i < n) : (i + n - c) % n = ringDist n c i := by
  unfold ringDist
  split
  · rw [show i + n - c = (i - c) + n by omega, Nat.add_mod_right, Nat.mod_eq_of_lt (by omega)]
  · exact Nat.mod_eq_of_lt (by omega)

theorem succ_mod_eq {n c : Nat} (hc : c < n) : (c + 1) % n = if c + 1 < n then c + 1 else 0 := by
  split
  · exact Nat.mod_eq_of_lt ‹_›
  · rw [show c + 1 = n by omega, Nat.mod_self]

theorem mod_of_lt_two_mul {n a : Nat} (h : a < 2 * n) : a % n = if a < n then a else a - n := by
  split
  · exact Nat.mod_eq_of_lt ‹_›
  · rw [Nat.mod_eq_sub_mod (by omega), Nat.mod_eq_of_lt (by omega)]

theorem countP_range_congr {n : Nat} {f g : Nat → Bool} (h : ∀ i < n, f i = g i) :
    (List.range n).countP f = (List.range n).countP g :=
  List.countP_congr fun i hi => by rw [h i (List.mem_range.mp hi)]

theorem countP_range_le (n : Nat) (f : Nat → Bool) : (List.range n).countP f ≤ n := by
  simpa using List.countP_le_length (p := f) (l := List.range n)

/-- One more slot counts. -/
theorem countP_range_add {n j : Nat} {f g : Nat → Bool} (hj : j < n) (h : ∀ i < n, i ≠ j → g i = f i)
    (hf : f j = false) (hg : g j = true) : (List.range n).countP g = (List.range n).countP f + 1 := by
  induction n with
  | zero => omega
  | succ n ih =>
    rw [List.range_succ, List.countP_append, List.countP_append]
    by_cases e : j = n
    · subst e
      rw [countP_range_congr (f := g) (g := f) fun i hi => h i (by omega) (by omega)]
      simp [hf, hg]
    · rw [ih (by omega) fun i hi => h i (by omega)]
      simp [h n (by omega) (by omega)]; omega

/-- The slots of `f` are consecutive from `c`, and `h` is the position after the last. -/
def Consecutive (n c h : Nat) (f : Nat → Bool) : Prop :=
  (List.range n).countP f ≤ n ∧ (c + (List.range n).countP f) % n = h ∧
    ∀ i < n, f i = decide ((i + n - c) % n < (List.range n).countP f)

/-- The first slot leaves. -/
theorem Consecutive.remove {n c h : Nat} {f g : Nat → Bool} (hc : c < n) (o : Consecutive n c h f)
    (h1 : f c = true) (h2 : g c = false) (h3 : ∀ i < n, i ≠ c → g i = f i) :
    Consecutive n ((c + 1) % n) h g := by
  have k := countP_range_add (f := g) (g := f) hc (fun i hi hn => (h3 i hi hn).symm) h2 h1
  obtain ⟨o1, o2, o3⟩ := o
  have hcn : (c + 1) % n < n := Nat.mod_lt _ (by omega)
  refine ⟨countP_range_le n g, ?_, fun i hi => ?_⟩
  · rw [k] at o2
    rw [Nat.mod_add_mod, ← o2]; congr 1; omega
  · have e := o3 i hi
    rw [mod_eq_ringDist hc hi, k] at e
    rw [mod_eq_ringDist hcn hi, succ_mod_eq hc]
    by_cases hic : i = c
    · subst hic
      rw [h2]; symm; rw [decide_eq_false_iff_not]
      have := countP_range_le n f
      unfold ringDist; split <;> split <;> omega
    · rw [h3 i hi hic, e, decide_eq_decide]
      have := countP_range_le n f
      unfold ringDist; split <;> split <;> split <;> omega

/-- A free slot at the position after the last lies at the run's length from its first. -/
theorem Consecutive.dist_of_free {n c h : Nat} {f : Nat → Bool} (hc : c < n) (hh : h < n)
    (o : Consecutive n c h f) (h1 : f h = false) : ringDist n c h = (List.range n).countP f := by
  obtain ⟨o1, o2, o3⟩ := o
  have e := o3 h hh
  rw [h1, mod_eq_ringDist hc hh, eq_comm, decide_eq_false_iff_not] at e
  rw [mod_of_lt_two_mul (by omega)] at o2
  unfold ringDist at *
  split at o2 <;> split at e <;> split <;> omega

/-- A slot joins at the position after the last. -/
theorem Consecutive.add {n c h : Nat} {f g : Nat → Bool} (hc : c < n) (hh : h < n) (o : Consecutive n c h f)
    (h1 : f h = false) (h2 : g h = true) (h3 : ∀ i < n, i ≠ h → g i = f i) :
    Consecutive n c ((h + 1) % n) g := by
  have k := countP_range_add (f := f) (g := g) hh h3 h1 h2
  have k2 := o.dist_of_free hc hh h1
  obtain ⟨o1, o2, o3⟩ := o
  refine ⟨countP_range_le n g, ?_, fun i hi => ?_⟩
  · rw [k, ← o2, Nat.mod_add_mod]; rfl
  · have e := o3 i hi
    rw [mod_eq_ringDist hc hi] at e
    rw [mod_eq_ringDist hc hi, k]
    by_cases hic : i = h
    · subst hic
      rw [h2]; symm; rw [decide_eq_true_eq]; omega
    · have : ringDist n c i ≠ ringDist n c h := by unfold ringDist; split <;> split <;> omega
      rw [h3 i hi hic, e, decide_eq_decide]; omega

end Sys2Proof.Machine
end

