-- ==== Sys2Proof/Laws/Decode.lean ====
section
/-! SUPPORT. The fields of a command word put together and taken apart. -/

namespace Sys2Proof

@[simp] theorem opField_cmdWord (arg : Word) (op : Byte) : opField (cmdWord arg op) = op := by
  unfold opField cmdWord
  ext i hi
  simp only [BitVec.getElem_extractLsb', BitVec.getLsbD_append, Nat.zero_add]
  rw [if_pos (by omega), if_pos (by omega), BitVec.getLsbD_eq_getElem hi]

@[simp] theorem zField_cmdWord (arg : Word) (op : Byte) : zField (cmdWord arg op) = 0 := by
  unfold zField cmdWord
  ext i hi
  simp only [BitVec.getElem_extractLsb', BitVec.getLsbD_append]
  rw [if_pos (by omega), if_neg (by omega)]
  simp

@[simp] theorem argField_cmdWord (arg : Word) (op : Byte) : argField (cmdWord arg op) = arg := by
  unfold argField cmdWord
  ext i hi
  simp only [BitVec.getElem_extractLsb', BitVec.getLsbD_append]
  rw [if_neg (by omega), show 32 + i - (24 + 8) = i by omega, BitVec.getLsbD_eq_getElem hi]

/-- A word with a zero `Z` field is its argument and its operation code. -/
theorem cmdWord_of_fields {w : CmdWord} (hz : zField w = 0) : cmdWord (argField w) (opField w) = w := by
  unfold cmdWord argField opField
  ext i hi
  simp only [BitVec.getElem_append, BitVec.getElem_extractLsb']
  split
  · split
    · rw [Nat.zero_add, BitVec.getLsbD_eq_getElem (by omega)]
    · rename_i h1 h2
      have hb : (zField w)[i - 8]'(by omega) = (0#24)[i - 8]'(by omega) := by rw [hz]; rfl
      unfold zField at hb
      rw [BitVec.getElem_extractLsb', show 8 + (i - 8) = i by omega, BitVec.getLsbD_eq_getElem (by omega)] at hb
      exact hb.symm
  · rename_i h1
    rw [show 32 + (i - (24 + 8)) = i by omega, BitVec.getLsbD_eq_getElem (by omega)]

/-- `whenZero` answers its instruction exactly where the bits are zero. -/
theorem whenZero_ok_iff {z : Bool} {arg : Word} {i j : Instr} :
    whenZero z arg i = .ok j ↔ z = true ∧ i = j := by
  unfold whenZero
  cases z <;> simp

/-- Decoding is decoding the operation code and the argument of a word whose `Z` field is zero. -/
theorem decode_ok_iff {w : CmdWord} {i : Instr} :
    decode w = .ok i ↔ zField w = 0 ∧ decodeOp (opField w) (argField w) = .ok i := by
  unfold decode
  split <;> simp_all

@[simp] theorem ringOfArg_append (r : Ring) (x : BitVec 31) : ringOfArg (r.bit ++ x) = r := by
  have h : (r.bit ++ x).getLsbD 31 = r.bit.getLsbD 0 := by rw [BitVec.getLsbD_append, if_neg (by omega)]
  unfold ringOfArg
  rw [h]
  cases r <;> rfl

@[simp] theorem whichOfArg_append (x : Which) : whichOfArg (0#31 ++ x.bit) = x := by
  cases x <;> rfl

end Sys2Proof
end

