-- ==== Sys2Proof/Laws/Flags.lean ====
section
/-! SUPPORT. What each descriptor word holds in each field. -/

namespace Sys2Proof.Machine

@[simp] theorem rxOwn_rxReleased (w : Word) : rxOwn (rxReleased w) = false := by
  simp [rxOwn, rxReleased, RX_OWN]
@[simp] theorem rxOwn_rxFilled (w : Word) : rxOwn (rxFilled w) = true := by
  simp [rxOwn, rxFilled, RX_OWN]
@[simp] theorem rxWrap_rxReleased (w : Word) : rxWrap (rxReleased w) = rxWrap w := by
  simp [rxWrap, rxReleased, RX_OWN]
@[simp] theorem rxWrap_rxFilled (w : Word) : rxWrap (rxFilled w) = rxWrap w := by
  simp [rxWrap, rxFilled, RX_OWN]
@[simp] theorem rxAddr_rxReleased (w : Word) : rxAddr (rxReleased w) = rxAddr w := by
  show w &&& ~~~RX_OWN &&& RX_ADDR_MASK = w &&& RX_ADDR_MASK
  rw [BitVec.and_assoc]
  exact congrArg (w &&& ·) (by decide)
@[simp] theorem rxAddr_rxFilled (w : Word) : rxAddr (rxFilled w) = rxAddr w := by
  show (w ||| RX_OWN) &&& RX_ADDR_MASK = w &&& RX_ADDR_MASK
  rw [BitVec.and_comm, BitVec.and_or_distrib_left, show RX_ADDR_MASK &&& RX_OWN = 0#32 by decide, BitVec.or_zero,
    BitVec.and_comm]
@[simp] theorem rxOwn_rxSetupWord (pa : Word) (last : Bool) : rxOwn (rxSetupWord pa last) = false := by
  cases last <;> simp [rxOwn, rxSetupWord, RX_ADDR_MASK, RX_WRAP]
@[simp] theorem rxWrap_rxSetupWord (pa : Word) (last : Bool) : rxWrap (rxSetupWord pa last) = last := by
  cases last <;> simp [rxWrap, rxSetupWord, RX_ADDR_MASK, RX_WRAP]
@[simp] theorem rxAddr_rxSetupWord (pa : Word) (last : Bool) : rxAddr (rxSetupWord pa last) = pa &&& RX_ADDR_MASK := by
  show (pa &&& RX_ADDR_MASK ||| _) &&& RX_ADDR_MASK = _
  rw [BitVec.and_comm, BitVec.and_or_distrib_left, BitVec.and_comm RX_ADDR_MASK (pa &&& RX_ADDR_MASK), BitVec.and_assoc]
  cases last
  · simp
  · simp only [if_true]
    rw [show RX_ADDR_MASK &&& RX_WRAP = 0#32 by decide, BitVec.or_zero, BitVec.and_self]

@[simp] theorem txUsed_txSetupStatus (last : Bool) : txUsed (txSetupStatus last) = true := by
  cases last <;> decide
@[simp] theorem txWrap_txSetupStatus (last : Bool) : txWrap (txSetupStatus last) = last := by
  cases last <;> decide
@[simp] theorem txUsed_txReturned (w : Word) : txUsed (txReturned w) = true := by
  simp [txUsed, txReturned, TX_USED]
@[simp] theorem txWrap_txReturned (w : Word) : txWrap (txReturned w) = txWrap w := by
  simp [txWrap, txReturned, TX_USED]
@[simp] theorem txUsed_txSent (w : Word) (stat : BitVec 14) : txUsed (txSent w stat) = true := by
  simp [txUsed, txSent, TX_USED]
@[simp] theorem txWrap_txSent (w : Word) (stat : BitVec 14) : txWrap (txSent w stat) = txWrap w := by
  simp [txWrap, txSent, TX_USED, TX_STAT_MASK]

/-- A length that fits the `LEN` field leaves every bit above it clear. -/
theorem getElem_len_high {len i : Nat} (hi : i < 32) (h : len < 2 ^ 14) (h14 : 14 ≤ i) :
    (BitVec.ofNat 32 len)[i] = false := by
  have : len.testBit i = false := Nat.testBit_lt_two_pow (lt_of_lt_of_le h (Nat.pow_le_pow_right (by omega) h14))
  rw [← BitVec.getLsbD_eq_getElem hi, BitVec.getLsbD_ofNat]
  simp [this]

theorem txUsed_txClaimed {w : Word} {len : Nat} (h : len < 2 ^ 14) : txUsed (txClaimed w len) = false := by
  simp [txUsed, txClaimed, getElem_len_high _ h, TX_WRAP, TX_LAST]
theorem txWrap_txClaimed {w : Word} {len : Nat} (h : len < 2 ^ 14) : txWrap (txClaimed w len) = txWrap w := by
  simp [txWrap, txClaimed, getElem_len_high _ h, TX_WRAP, TX_LAST]
theorem txLast_txClaimed (w : Word) (len : Nat) : txLast (txClaimed w len) = true := by
  simp [txLast, txClaimed, TX_WRAP, TX_LAST]

theorem txLen_txClaimed {w : Word} {len : Nat} (h : len < 2 ^ 14) : txLen (txClaimed w len) = len := by
  unfold txLen txClaimed
  have : ((w &&& TX_WRAP) ||| TX_LAST ||| BitVec.ofNat 32 len).extractLsb' 0 14 = BitVec.ofNat 14 len := by
    ext i hi
    have h30 : TX_WRAP.getLsbD i = false := by
      have : ∀ j < 14, TX_WRAP.getLsbD j = false := by decide
      exact this i hi
    have h15 : TX_LAST.getLsbD i = false := by
      have : ∀ j < 14, TX_LAST.getLsbD j = false := by decide
      exact this i hi
    rw [BitVec.getElem_extractLsb', ← BitVec.getLsbD_eq_getElem (x := BitVec.ofNat 14 len) hi, BitVec.getLsbD_ofNat]
    simp only [Nat.zero_add, BitVec.getLsbD_or, BitVec.getLsbD_and, h30, h15, BitVec.getLsbD_ofNat]
    simp [hi, show i < 32 by omega]
  rw [this, BitVec.toNat_ofNat, Nat.mod_eq_of_lt h]

@[simp] theorem txLast_txReturned (w : Word) : txLast (txReturned w) = txLast w := by
  simp [txLast, txReturned, TX_USED]

end Sys2Proof.Machine
end

