-- ==== Sys2Proof/Laws/Memory.lean ====
section
/-! SUPPORT. Read after store, canonical form, and words as four bytes. -/

namespace Sys2Proof.Machine

theorem wordOfBytes_wordBytes (w : Word) :
    wordOfBytes (w.extractLsb' 0 8) (w.extractLsb' 8 8) (w.extractLsb' 16 8) (w.extractLsb' 24 8) = w := by
  unfold wordOfBytes
  ext i hi
  have hb : ∀ j, j = i → w.getLsbD j = w[i] := fun j hj => by subst hj; exact BitVec.getLsbD_eq_getElem hi
  simp only [BitVec.getElem_append, BitVec.getElem_extractLsb']
  split
  · split
    · split
      · exact hb _ (by omega)
      · exact hb _ (by omega)
    · exact hb _ (by omega)
  · exact hb _ (by omega)

@[simp] theorem wordBytes_length (w : Word) : (wordBytes w).length = 4 := rfl

theorem Memory.read_append (m₁ m₂ : Memory) (a : Nat) :
    Memory.read (m₁ ++ m₂) a = (Memory.read m₁ a).or (Memory.read m₂ a) := by
  induction m₁ with
  | nil => simp [Memory.read]
  | cons c m ih =>
    obtain ⟨k, b⟩ := c
    simp only [List.cons_append, Memory.read]
    split <;> simp [ih]

theorem Memory.read_filter (m : Memory) (p : Nat → Bool) (a : Nat) :
    Memory.read (m.filter fun c => p c.1) a = if p a then Memory.read m a else none := by
  induction m with
  | nil => simp [Memory.read]
  | cons c m ih =>
    obtain ⟨k, b⟩ := c
    by_cases hk : k = a
    · subst hk
      by_cases hp : p k <;> simp [Memory.read, hp, ih]
    · by_cases hp : p k <;> simp [Memory.read, hp, hk, ih]

theorem Memory.read_cells (off : Nat) (bs : List Byte) (a : Nat) :
    Memory.read (Memory.cells off bs) a = if off ≤ a then bs[a - off]? else none := by
  induction bs generalizing off with
  | nil => simp [Memory.cells, Memory.read]
  | cons b bs ih =>
    simp only [Memory.cells, Memory.read, ih]
    split
    · subst_vars; simp
    · by_cases h : off + 1 ≤ a
      · have e : a - off = (a - (off + 1)) + 1 := by omega
        simp [h, show off ≤ a by omega, e]
      · simp [h, show ¬ off ≤ a by omega]

/-- What a store does to a read of one byte. -/
theorem Memory.read_store (m : Memory) (off : Nat) (bs : List Byte) (a : Nat) :
    (m.store off bs).read a = if off ≤ a ∧ a < off + bs.length then bs[a - off]? else m.read a := by
  unfold Memory.store
  rw [Memory.read_append, Memory.read_append, Memory.read_cells,
    Memory.read_filter m (fun k => decide (k < off)), Memory.read_filter m (fun k => decide (off + bs.length ≤ k))]
  by_cases h1 : a < off
  · simp [h1, show ¬ off ≤ a by omega, show ¬ off + bs.length ≤ a by omega]
  · by_cases h2 : a < off + bs.length
    · simp [h1, h2, show off ≤ a by omega, show ¬ off + bs.length ≤ a by omega]
    · simp [h1, h2, show off ≤ a by omega, show off + bs.length ≤ a by omega]
      rw [List.getElem?_eq_none (by omega)]; simp

theorem Memory.read_store_outside {m : Memory} {off : Nat} {bs : List Byte} {a : Nat}
    (h : a < off ∨ off + bs.length ≤ a) : (m.store off bs).read a = m.read a := by
  rw [Memory.read_store, if_neg (by omega)]

theorem Memory.read_writeWord_outside {m : Memory} {off : Nat} {w : Word} {a : Nat}
    (h : a < off ∨ off + 4 ≤ a) : (m.writeWord off w).read a = m.read a :=
  Memory.read_store_outside (by simpa using h)

/-- Stored bytes that miss a word leave it as it was. -/
theorem Memory.readWord_store_outside {m : Memory} {off : Nat} {bs : List Byte} {a : Nat}
    (h : a + 4 ≤ off ∨ off + bs.length ≤ a) : (m.store off bs).readWord a = m.readWord a := by
  unfold Memory.readWord
  rw [Memory.read_store_outside (by omega), Memory.read_store_outside (by omega),
    Memory.read_store_outside (by omega), Memory.read_store_outside (by omega)]

theorem Memory.readWord_writeWord_outside {m : Memory} {off : Nat} {w : Word} {a : Nat}
    (h : a + 4 ≤ off ∨ off + 4 ≤ a) : (m.writeWord off w).readWord a = m.readWord a :=
  Memory.readWord_store_outside (by simpa using h)

/-- A word stored among other bytes is read back. -/
theorem Memory.readWord_store_word {m : Memory} {off : Nat} {bs : List Byte} {k : Nat} {w : Word}
    (h : ∀ j < 4, bs[k + j]? = (wordBytes w)[j]?) : (m.store off bs).readWord (off + k) = some w := by
  have hl : k + 4 ≤ bs.length := by
    have h3 := h 3 (by omega)
    have hs : (wordBytes w)[3]? = some (w.extractLsb' 24 8) := rfl
    rw [hs] at h3
    have := (List.getElem?_eq_some_iff.mp h3).1
    omega
  have hr : ∀ j < 4, (m.store off bs).read (off + k + j) = (wordBytes w)[j]? := fun j hj => by
    rw [Memory.read_store, if_pos (by omega), show off + k + j - off = k + j by omega, h j hj]
  unfold Memory.readWord
  have h0 := hr 0 (by omega)
  rw [Nat.add_zero] at h0
  rw [h0, hr 1 (by omega), hr 2 (by omega), hr 3 (by omega)]
  exact congrArg some (wordOfBytes_wordBytes w)

/-- A word is read back as it was written. -/
@[simp] theorem Memory.readWord_writeWord (m : Memory) (off : Nat) (w : Word) :
    (m.writeWord off w).readWord off = some w := by
  have := Memory.readWord_store_word (m := m) (off := off) (bs := wordBytes w) (k := 0) (w := w)
    (fun j _ => by rw [Nat.zero_add])
  simpa [Memory.writeWord] using this

theorem Memory.mem_cells {off : Nat} {bs : List Byte} {c : Host.Cell} (h : c ∈ Memory.cells off bs) :
    off ≤ c.1 ∧ c.1 < off + bs.length := by
  induction bs generalizing off with
  | nil => simp [Memory.cells] at h
  | cons b bs ih =>
    simp only [Memory.cells, List.mem_cons] at h
    rcases h with rfl | h
    · simp
    · have := ih h; simp only [List.length_cons]; omega

theorem Memory.cells_wf (off : Nat) (bs : List Byte) : (Memory.cells off bs).wf := by
  induction bs generalizing off with
  | nil => exact List.Pairwise.nil
  | cons b bs ih =>
    refine List.Pairwise.cons (fun c hc => ?_) (ih (off + 1))
    have := Memory.mem_cells hc
    show off < c.1
    omega

/-- Every store keeps the canonical form. -/
theorem Memory.store_wf {m : Memory} (h : m.wf) (off : Nat) (bs : List Byte) : (m.store off bs).wf := by
  unfold Memory.wf Memory.store
  simp only [List.pairwise_append, List.mem_append, List.mem_filter, decide_eq_true_eq]
  refine ⟨h.filter _, ⟨Memory.cells_wf off bs, h.filter _, ?_⟩, ?_⟩
  · rintro a ha b ⟨_, hb⟩
    have := Memory.mem_cells ha
    omega
  · rintro a ⟨_, ha⟩ b (hb | ⟨_, hb⟩)
    · have := Memory.mem_cells hb
      omega
    · omega

theorem Memory.writeWord_wf {m : Memory} (h : m.wf) (off : Nat) (w : Word) : (m.writeWord off w).wf :=
  Memory.store_wf h off _

/-- A store inside a bound keeps every listed offset below it. -/
theorem Memory.store_bounded {m : Memory} {n off : Nat} {bs : List Byte} (h : ∀ c ∈ m, c.1 < n)
    (hb : off + bs.length ≤ n) : ∀ c ∈ m.store off bs, c.1 < n := by
  intro c hc
  simp only [Memory.store, List.mem_append, List.mem_filter] at hc
  rcases hc with ⟨hc, _⟩ | hc | ⟨hc, _⟩
  · exact h c hc
  · have := Memory.mem_cells hc
    omega
  · exact h c hc

/-- Equal canonical memories are equal data: the cells are determined by the reads. -/
theorem Memory.read_eq_of_mem {m : Memory} (h : m.wf) {c : Host.Cell} (hc : c ∈ m) : m.read c.1 = some c.2 := by
  induction m with
  | nil => simp at hc
  | cons d m ih =>
    obtain ⟨k, b⟩ := d
    rcases List.mem_cons.mp hc with rfl | hm
    · simp [Memory.read]
    · have hk : k < c.1 := (List.pairwise_cons.mp h).1 c hm
      simp only [Memory.read, if_neg (Nat.ne_of_lt hk)]
      exact ih (List.pairwise_cons.mp h).2 hm

end Sys2Proof.Machine
end

