-- ==== Sys2Proof/Laws/State.lean ====
section
/-! SUPPORT. What each named update of the state leaves in each field. -/

namespace Sys2Proof.Machine

variable (s : State)

@[simp] theorem State.raiseFault_res (r : FaultRecord) : (s.raiseFault r).res = s.res := rfl
@[simp] theorem State.raiseFault_st (r : FaultRecord) : (s.raiseFault r).st = s.st := rfl
@[simp] theorem State.raiseFault_pc (r : FaultRecord) : (s.raiseFault r).pc = s.pc := rfl
@[simp] theorem State.raiseFault_program (r : FaultRecord) : (s.raiseFault r).program = s.program := rfl
@[simp] theorem State.raiseFault_mem (r : FaultRecord) : (s.raiseFault r).mem = s.mem := rfl
@[simp] theorem State.raiseFault_layout (r : FaultRecord) : (s.raiseFault r).layout = s.layout := rfl
@[simp] theorem State.raiseFault_layoutSet (r : FaultRecord) : (s.raiseFault r).layoutSet = s.layoutSet := rfl
@[simp] theorem State.raiseFault_rxState (r : FaultRecord) : (s.raiseFault r).rxState = s.rxState := rfl
@[simp] theorem State.raiseFault_txState (r : FaultRecord) : (s.raiseFault r).txState = s.txState := rfl
@[simp] theorem State.raiseFault_dmyState (r : FaultRecord) : (s.raiseFault r).dmyState = s.dmyState := rfl
@[simp] theorem State.raiseFault_rxCursor (r : FaultRecord) : (s.raiseFault r).rxCursor = s.rxCursor := rfl
@[simp] theorem State.raiseFault_txCursor (r : FaultRecord) : (s.raiseFault r).txCursor = s.txCursor := rfl
@[simp] theorem State.raiseFault_rxBorrow (r : FaultRecord) : (s.raiseFault r).rxBorrow = s.rxBorrow := rfl
@[simp] theorem State.raiseFault_txClaim (r : FaultRecord) : (s.raiseFault r).txClaim = s.txClaim := rfl
@[simp] theorem State.raiseFault_hrx (r : FaultRecord) : (s.raiseFault r).hrx = s.hrx := rfl
@[simp] theorem State.raiseFault_htx (r : FaultRecord) : (s.raiseFault r).htx = s.htx := rfl
@[simp] theorem State.raiseFault_rxqBase (r : FaultRecord) : (s.raiseFault r).rxqBase = s.rxqBase := rfl
@[simp] theorem State.raiseFault_txqBase (r : FaultRecord) : (s.raiseFault r).txqBase = s.txqBase := rfl
@[simp] theorem State.raiseFault_txq1Base (r : FaultRecord) : (s.raiseFault r).txq1Base = s.txq1Base := rfl
@[simp] theorem State.raiseFault_rxqSet (r : FaultRecord) : (s.raiseFault r).rxqSet = s.rxqSet := rfl
@[simp] theorem State.raiseFault_txqSet (r : FaultRecord) : (s.raiseFault r).txqSet = s.txqSet := rfl
@[simp] theorem State.raiseFault_txq1Set (r : FaultRecord) : (s.raiseFault r).txq1Set = s.txq1Set := rfl
@[simp] theorem State.raiseFault_hwRxIdx (r : FaultRecord) : (s.raiseFault r).hwRxIdx = s.hwRxIdx := rfl
@[simp] theorem State.raiseFault_hwTxIdx (r : FaultRecord) : (s.raiseFault r).hwTxIdx = s.hwTxIdx := rfl
@[simp] theorem State.raiseFault_rxEnabled (r : FaultRecord) : (s.raiseFault r).rxEnabled = s.rxEnabled := rfl
@[simp] theorem State.raiseFault_txRunning (r : FaultRecord) : (s.raiseFault r).txRunning = s.txRunning := rfl
@[simp] theorem State.raiseFault_rxComplete (r : FaultRecord) : (s.raiseFault r).rxComplete = s.rxComplete := rfl
@[simp] theorem State.raiseFault_txComplete (r : FaultRecord) : (s.raiseFault r).txComplete = s.txComplete := rfl
@[simp] theorem State.raiseFault_oversizeMarker (r : FaultRecord) : (s.raiseFault r).oversizeMarker = s.oversizeMarker := rfl
@[simp] theorem State.raiseFault_wireTx (r : FaultRecord) : (s.raiseFault r).wireTx = s.wireTx := rfl
@[simp] theorem State.raiseFault_fault (r : FaultRecord) : (s.raiseFault r).fault = some r := rfl
@[simp] theorem State.raiseFault_cfg (r : FaultRecord) : (s.raiseFault r).cfg = s.cfg := rfl
@[simp] theorem State.raiseFault_agenda (r : FaultRecord) : (s.raiseFault r).agenda = s.agenda := rfl
@[simp] theorem State.raiseFault_turn (r : FaultRecord) : (s.raiseFault r).turn = s.turn := rfl
@[simp] theorem State.raiseFault_draw (r : FaultRecord) : (s.raiseFault r).draw = s.draw := rfl

@[simp] theorem State.advancePc_res : (s.advancePc).res = s.res := rfl
@[simp] theorem State.advancePc_st : (s.advancePc).st = s.st := rfl
@[simp] theorem State.advancePc_pc : (s.advancePc).pc = s.pc + 1 := rfl
@[simp] theorem State.advancePc_program : (s.advancePc).program = s.program := rfl
@[simp] theorem State.advancePc_mem : (s.advancePc).mem = s.mem := rfl
@[simp] theorem State.advancePc_layout : (s.advancePc).layout = s.layout := rfl
@[simp] theorem State.advancePc_layoutSet : (s.advancePc).layoutSet = s.layoutSet := rfl
@[simp] theorem State.advancePc_rxState : (s.advancePc).rxState = s.rxState := rfl
@[simp] theorem State.advancePc_txState : (s.advancePc).txState = s.txState := rfl
@[simp] theorem State.advancePc_dmyState : (s.advancePc).dmyState = s.dmyState := rfl
@[simp] theorem State.advancePc_rxCursor : (s.advancePc).rxCursor = s.rxCursor := rfl
@[simp] theorem State.advancePc_txCursor : (s.advancePc).txCursor = s.txCursor := rfl
@[simp] theorem State.advancePc_rxBorrow : (s.advancePc).rxBorrow = s.rxBorrow := rfl
@[simp] theorem State.advancePc_txClaim : (s.advancePc).txClaim = s.txClaim := rfl
@[simp] theorem State.advancePc_hrx : (s.advancePc).hrx = s.hrx := rfl
@[simp] theorem State.advancePc_htx : (s.advancePc).htx = s.htx := rfl
@[simp] theorem State.advancePc_rxqBase : (s.advancePc).rxqBase = s.rxqBase := rfl
@[simp] theorem State.advancePc_txqBase : (s.advancePc).txqBase = s.txqBase := rfl
@[simp] theorem State.advancePc_txq1Base : (s.advancePc).txq1Base = s.txq1Base := rfl
@[simp] theorem State.advancePc_rxqSet : (s.advancePc).rxqSet = s.rxqSet := rfl
@[simp] theorem State.advancePc_txqSet : (s.advancePc).txqSet = s.txqSet := rfl
@[simp] theorem State.advancePc_txq1Set : (s.advancePc).txq1Set = s.txq1Set := rfl
@[simp] theorem State.advancePc_hwRxIdx : (s.advancePc).hwRxIdx = s.hwRxIdx := rfl
@[simp] theorem State.advancePc_hwTxIdx : (s.advancePc).hwTxIdx = s.hwTxIdx := rfl
@[simp] theorem State.advancePc_rxEnabled : (s.advancePc).rxEnabled = s.rxEnabled := rfl
@[simp] theorem State.advancePc_txRunning : (s.advancePc).txRunning = s.txRunning := rfl
@[simp] theorem State.advancePc_rxComplete : (s.advancePc).rxComplete = s.rxComplete := rfl
@[simp] theorem State.advancePc_txComplete : (s.advancePc).txComplete = s.txComplete := rfl
@[simp] theorem State.advancePc_oversizeMarker : (s.advancePc).oversizeMarker = s.oversizeMarker := rfl
@[simp] theorem State.advancePc_wireTx : (s.advancePc).wireTx = s.wireTx := rfl
@[simp] theorem State.advancePc_fault : (s.advancePc).fault = s.fault := rfl
@[simp] theorem State.advancePc_cfg : (s.advancePc).cfg = s.cfg := rfl
@[simp] theorem State.advancePc_agenda : (s.advancePc).agenda = s.agenda := rfl
@[simp] theorem State.advancePc_turn : (s.advancePc).turn = s.turn := rfl
@[simp] theorem State.advancePc_draw : (s.advancePc).draw = s.draw := rfl

@[simp] theorem State.setRes_res (v : BitVec 64) : (s.setRes v).res = some v := rfl
@[simp] theorem State.setRes_st (v : BitVec 64) : (s.setRes v).st = s.st := rfl
@[simp] theorem State.setRes_pc (v : BitVec 64) : (s.setRes v).pc = s.pc := rfl
@[simp] theorem State.setRes_program (v : BitVec 64) : (s.setRes v).program = s.program := rfl
@[simp] theorem State.setRes_mem (v : BitVec 64) : (s.setRes v).mem = s.mem := rfl
@[simp] theorem State.setRes_layout (v : BitVec 64) : (s.setRes v).layout = s.layout := rfl
@[simp] theorem State.setRes_layoutSet (v : BitVec 64) : (s.setRes v).layoutSet = s.layoutSet := rfl
@[simp] theorem State.setRes_rxState (v : BitVec 64) : (s.setRes v).rxState = s.rxState := rfl
@[simp] theorem State.setRes_txState (v : BitVec 64) : (s.setRes v).txState = s.txState := rfl
@[simp] theorem State.setRes_dmyState (v : BitVec 64) : (s.setRes v).dmyState = s.dmyState := rfl
@[simp] theorem State.setRes_rxCursor (v : BitVec 64) : (s.setRes v).rxCursor = s.rxCursor := rfl
@[simp] theorem State.setRes_txCursor (v : BitVec 64) : (s.setRes v).txCursor = s.txCursor := rfl
@[simp] theorem State.setRes_rxBorrow (v : BitVec 64) : (s.setRes v).rxBorrow = s.rxBorrow := rfl
@[simp] theorem State.setRes_txClaim (v : BitVec 64) : (s.setRes v).txClaim = s.txClaim := rfl
@[simp] theorem State.setRes_hrx (v : BitVec 64) : (s.setRes v).hrx = s.hrx := rfl
@[simp] theorem State.setRes_htx (v : BitVec 64) : (s.setRes v).htx = s.htx := rfl
@[simp] theorem State.setRes_rxqBase (v : BitVec 64) : (s.setRes v).rxqBase = s.rxqBase := rfl
@[simp] theorem State.setRes_txqBase (v : BitVec 64) : (s.setRes v).txqBase = s.txqBase := rfl
@[simp] theorem State.setRes_txq1Base (v : BitVec 64) : (s.setRes v).txq1Base = s.txq1Base := rfl
@[simp] theorem State.setRes_rxqSet (v : BitVec 64) : (s.setRes v).rxqSet = s.rxqSet := rfl
@[simp] theorem State.setRes_txqSet (v : BitVec 64) : (s.setRes v).txqSet = s.txqSet := rfl
@[simp] theorem State.setRes_txq1Set (v : BitVec 64) : (s.setRes v).txq1Set = s.txq1Set := rfl
@[simp] theorem State.setRes_hwRxIdx (v : BitVec 64) : (s.setRes v).hwRxIdx = s.hwRxIdx := rfl
@[simp] theorem State.setRes_hwTxIdx (v : BitVec 64) : (s.setRes v).hwTxIdx = s.hwTxIdx := rfl
@[simp] theorem State.setRes_rxEnabled (v : BitVec 64) : (s.setRes v).rxEnabled = s.rxEnabled := rfl
@[simp] theorem State.setRes_txRunning (v : BitVec 64) : (s.setRes v).txRunning = s.txRunning := rfl
@[simp] theorem State.setRes_rxComplete (v : BitVec 64) : (s.setRes v).rxComplete = s.rxComplete := rfl
@[simp] theorem State.setRes_txComplete (v : BitVec 64) : (s.setRes v).txComplete = s.txComplete := rfl
@[simp] theorem State.setRes_oversizeMarker (v : BitVec 64) : (s.setRes v).oversizeMarker = s.oversizeMarker := rfl
@[simp] theorem State.setRes_wireTx (v : BitVec 64) : (s.setRes v).wireTx = s.wireTx := rfl
@[simp] theorem State.setRes_fault (v : BitVec 64) : (s.setRes v).fault = s.fault := rfl
@[simp] theorem State.setRes_cfg (v : BitVec 64) : (s.setRes v).cfg = s.cfg := rfl
@[simp] theorem State.setRes_agenda (v : BitVec 64) : (s.setRes v).agenda = s.agenda := rfl
@[simp] theorem State.setRes_turn (v : BitVec 64) : (s.setRes v).turn = s.turn := rfl
@[simp] theorem State.setRes_draw (v : BitVec 64) : (s.setRes v).draw = s.draw := rfl

@[simp] theorem State.setSt_res (v : Status) : (s.setSt v).res = s.res := rfl
@[simp] theorem State.setSt_st (v : Status) : (s.setSt v).st = some v := rfl
@[simp] theorem State.setSt_pc (v : Status) : (s.setSt v).pc = s.pc := rfl
@[simp] theorem State.setSt_program (v : Status) : (s.setSt v).program = s.program := rfl
@[simp] theorem State.setSt_mem (v : Status) : (s.setSt v).mem = s.mem := rfl
@[simp] theorem State.setSt_layout (v : Status) : (s.setSt v).layout = s.layout := rfl
@[simp] theorem State.setSt_layoutSet (v : Status) : (s.setSt v).layoutSet = s.layoutSet := rfl
@[simp] theorem State.setSt_rxState (v : Status) : (s.setSt v).rxState = s.rxState := rfl
@[simp] theorem State.setSt_txState (v : Status) : (s.setSt v).txState = s.txState := rfl
@[simp] theorem State.setSt_dmyState (v : Status) : (s.setSt v).dmyState = s.dmyState := rfl
@[simp] theorem State.setSt_rxCursor (v : Status) : (s.setSt v).rxCursor = s.rxCursor := rfl
@[simp] theorem State.setSt_txCursor (v : Status) : (s.setSt v).txCursor = s.txCursor := rfl
@[simp] theorem State.setSt_rxBorrow (v : Status) : (s.setSt v).rxBorrow = s.rxBorrow := rfl
@[simp] theorem State.setSt_txClaim (v : Status) : (s.setSt v).txClaim = s.txClaim := rfl
@[simp] theorem State.setSt_hrx (v : Status) : (s.setSt v).hrx = s.hrx := rfl
@[simp] theorem State.setSt_htx (v : Status) : (s.setSt v).htx = s.htx := rfl
@[simp] theorem State.setSt_rxqBase (v : Status) : (s.setSt v).rxqBase = s.rxqBase := rfl
@[simp] theorem State.setSt_txqBase (v : Status) : (s.setSt v).txqBase = s.txqBase := rfl
@[simp] theorem State.setSt_txq1Base (v : Status) : (s.setSt v).txq1Base = s.txq1Base := rfl
@[simp] theorem State.setSt_rxqSet (v : Status) : (s.setSt v).rxqSet = s.rxqSet := rfl
@[simp] theorem State.setSt_txqSet (v : Status) : (s.setSt v).txqSet = s.txqSet := rfl
@[simp] theorem State.setSt_txq1Set (v : Status) : (s.setSt v).txq1Set = s.txq1Set := rfl
@[simp] theorem State.setSt_hwRxIdx (v : Status) : (s.setSt v).hwRxIdx = s.hwRxIdx := rfl
@[simp] theorem State.setSt_hwTxIdx (v : Status) : (s.setSt v).hwTxIdx = s.hwTxIdx := rfl
@[simp] theorem State.setSt_rxEnabled (v : Status) : (s.setSt v).rxEnabled = s.rxEnabled := rfl
@[simp] theorem State.setSt_txRunning (v : Status) : (s.setSt v).txRunning = s.txRunning := rfl
@[simp] theorem State.setSt_rxComplete (v : Status) : (s.setSt v).rxComplete = s.rxComplete := rfl
@[simp] theorem State.setSt_txComplete (v : Status) : (s.setSt v).txComplete = s.txComplete := rfl
@[simp] theorem State.setSt_oversizeMarker (v : Status) : (s.setSt v).oversizeMarker = s.oversizeMarker := rfl
@[simp] theorem State.setSt_wireTx (v : Status) : (s.setSt v).wireTx = s.wireTx := rfl
@[simp] theorem State.setSt_fault (v : Status) : (s.setSt v).fault = s.fault := rfl
@[simp] theorem State.setSt_cfg (v : Status) : (s.setSt v).cfg = s.cfg := rfl
@[simp] theorem State.setSt_agenda (v : Status) : (s.setSt v).agenda = s.agenda := rfl
@[simp] theorem State.setSt_turn (v : Status) : (s.setSt v).turn = s.turn := rfl
@[simp] theorem State.setSt_draw (v : Status) : (s.setSt v).draw = s.draw := rfl

@[simp] theorem State.beginTurn_res (d : Draw) : (s.beginTurn d).res = s.res := rfl
@[simp] theorem State.beginTurn_st (d : Draw) : (s.beginTurn d).st = s.st := rfl
@[simp] theorem State.beginTurn_pc (d : Draw) : (s.beginTurn d).pc = s.pc := rfl
@[simp] theorem State.beginTurn_program (d : Draw) : (s.beginTurn d).program = s.program := rfl
@[simp] theorem State.beginTurn_mem (d : Draw) : (s.beginTurn d).mem = s.mem := rfl
@[simp] theorem State.beginTurn_layout (d : Draw) : (s.beginTurn d).layout = s.layout := rfl
@[simp] theorem State.beginTurn_layoutSet (d : Draw) : (s.beginTurn d).layoutSet = s.layoutSet := rfl
@[simp] theorem State.beginTurn_rxState (d : Draw) : (s.beginTurn d).rxState = s.rxState := rfl
@[simp] theorem State.beginTurn_txState (d : Draw) : (s.beginTurn d).txState = s.txState := rfl
@[simp] theorem State.beginTurn_dmyState (d : Draw) : (s.beginTurn d).dmyState = s.dmyState := rfl
@[simp] theorem State.beginTurn_rxCursor (d : Draw) : (s.beginTurn d).rxCursor = s.rxCursor := rfl
@[simp] theorem State.beginTurn_txCursor (d : Draw) : (s.beginTurn d).txCursor = s.txCursor := rfl
@[simp] theorem State.beginTurn_rxBorrow (d : Draw) : (s.beginTurn d).rxBorrow = s.rxBorrow := rfl
@[simp] theorem State.beginTurn_txClaim (d : Draw) : (s.beginTurn d).txClaim = s.txClaim := rfl
@[simp] theorem State.beginTurn_hrx (d : Draw) : (s.beginTurn d).hrx = s.hrx := rfl
@[simp] theorem State.beginTurn_htx (d : Draw) : (s.beginTurn d).htx = s.htx := rfl
@[simp] theorem State.beginTurn_rxqBase (d : Draw) : (s.beginTurn d).rxqBase = s.rxqBase := rfl
@[simp] theorem State.beginTurn_txqBase (d : Draw) : (s.beginTurn d).txqBase = s.txqBase := rfl
@[simp] theorem State.beginTurn_txq1Base (d : Draw) : (s.beginTurn d).txq1Base = s.txq1Base := rfl
@[simp] theorem State.beginTurn_rxqSet (d : Draw) : (s.beginTurn d).rxqSet = s.rxqSet := rfl
@[simp] theorem State.beginTurn_txqSet (d : Draw) : (s.beginTurn d).txqSet = s.txqSet := rfl
@[simp] theorem State.beginTurn_txq1Set (d : Draw) : (s.beginTurn d).txq1Set = s.txq1Set := rfl
@[simp] theorem State.beginTurn_hwRxIdx (d : Draw) : (s.beginTurn d).hwRxIdx = s.hwRxIdx := rfl
@[simp] theorem State.beginTurn_hwTxIdx (d : Draw) : (s.beginTurn d).hwTxIdx = s.hwTxIdx := rfl
@[simp] theorem State.beginTurn_rxEnabled (d : Draw) : (s.beginTurn d).rxEnabled = s.rxEnabled := rfl
@[simp] theorem State.beginTurn_txRunning (d : Draw) : (s.beginTurn d).txRunning = s.txRunning := rfl
@[simp] theorem State.beginTurn_rxComplete (d : Draw) : (s.beginTurn d).rxComplete = s.rxComplete := rfl
@[simp] theorem State.beginTurn_txComplete (d : Draw) : (s.beginTurn d).txComplete = s.txComplete := rfl
@[simp] theorem State.beginTurn_oversizeMarker (d : Draw) : (s.beginTurn d).oversizeMarker = s.oversizeMarker := rfl
@[simp] theorem State.beginTurn_wireTx (d : Draw) : (s.beginTurn d).wireTx = s.wireTx := rfl
@[simp] theorem State.beginTurn_fault (d : Draw) : (s.beginTurn d).fault = s.fault := rfl
@[simp] theorem State.beginTurn_cfg (d : Draw) : (s.beginTurn d).cfg = s.cfg := rfl
@[simp] theorem State.beginTurn_agenda (d : Draw) : (s.beginTurn d).agenda = s.agenda.tail := rfl
@[simp] theorem State.beginTurn_turn (d : Draw) : (s.beginTurn d).turn = s.turn + 1 := rfl
@[simp] theorem State.beginTurn_draw (d : Draw) : (s.beginTurn d).draw = d := rfl

end Sys2Proof.Machine
end

