-- ==== Sys2Proof/Laws/Ops.lean ====
section
/-! SUPPORT. One lemma per shared operation: what it answers and when. -/

namespace Sys2Proof.Machine

theorem Attempt.bind_ok_iff {α β : Type} {x : Attempt α} {f : α → Attempt β} {b : β} :
    (x >>= f) = .ok b ↔ ∃ a, x = .ok a ∧ f a = .ok b := by
  cases x <;> simp [bind, Except.bind]

@[simp] theorem Attempt.ok_bind {α β : Type} (a : α) (f : α → Attempt β) :
    ((.ok a : Attempt α) >>= f) = f a := rfl

@[simp] theorem Attempt.error_bind {α β : Type} (e : Stop) (f : α → Attempt β) :
    ((.error e : Attempt α) >>= f) = .error e := rfl

theorem Attempt.bind_error_iff {α β : Type} {x : Attempt α} {f : α → Attempt β} {e : Stop} :
    (x >>= f) = .error e ↔ x = .error e ∨ ∃ a, x = .ok a ∧ f a = .error e := by
  cases x <;> simp [bind, Except.bind]

@[simp] theorem require_ok_iff {p : Prop} [Decidable p] {r : FaultRecord} {u : Unit} :
    require p r = .ok u ↔ p := by
  unfold require
  split <;> simp_all

theorem require_of {p : Prop} [Decidable p] (r : FaultRecord) (h : p) : require p r = .ok () := if_pos h

theorem require_of_not {p : Prop} [Decidable p] (r : FaultRecord) (h : ¬ p) : require p r = .error (.raise r) :=
  if_neg h

theorem require_error_iff {p : Prop} [Decidable p] {r : FaultRecord} {e : Stop} :
    require p r = .error e ↔ ¬ p ∧ e = .raise r := by
  unfold require
  split <;> simp_all [eq_comm]

@[simp] theorem known_ok_iff {α : Type} {v : Option α} {u : Unwritten} {x : α} :
    known v u = .ok x ↔ v = some x := by
  cases v <;> simp [known]

theorem known_error_iff {α : Type} {v : Option α} {u : Unwritten} {e : Stop} :
    known v u = .error e ↔ v = none ∧ e = .raise (.readUnwritten u) := by
  cases v <;> simp [known, eq_comm]

@[simp] theorem State.layoutOf_ok_iff {s : State} {L : Layout} : s.layoutOf = .ok L ↔ s.layout = some L :=
  known_ok_iff

theorem State.loadWord_ok_iff {s : State} {off : Nat} {w : Word} :
    s.loadWord off = .ok w ↔ off + 4 ≤ s.cfg.size ∧ s.mem.readWord off = some w := by
  unfold State.loadWord
  split <;> simp_all

theorem State.loadByte_ok_iff {s : State} {off : Nat} {b : Byte} :
    s.loadByte off = .ok b ↔ off + 1 ≤ s.cfg.size ∧ s.mem.read off = some b := by
  unfold State.loadByte
  split <;> simp_all

theorem State.storeBytes_ok_iff {s t : State} {off : Nat} {bs : List Byte} :
    s.storeBytes off bs = .ok t ↔ off + bs.length ≤ s.cfg.size ∧ t = { s with mem := s.mem.store off bs } := by
  unfold State.storeBytes
  split <;> simp_all [eq_comm]

theorem State.storeWord_ok_iff {s t : State} {off : Nat} {w : Word} :
    s.storeWord off w = .ok t ↔ off + 4 ≤ s.cfg.size ∧ t = { s with mem := s.mem.writeWord off w } :=
  State.storeBytes_ok_iff

/-- Where every byte of a word is written, the DMA agent reads what software reads. -/
theorem State.dmaWord_of_written {s : State} {off : Nat} {w : Word} (hs : off + 4 ≤ s.cfg.size)
    (h : s.mem.readWord off = some w) : s.dmaWord off = .ok w := by
  unfold Memory.readWord at h
  unfold State.dmaWord State.dmaByte
  rw [if_pos hs]
  split at h
  · next h0 h1 h2 h3 => rw [h0, h1, h2, h3]; simpa using h
  · simp at h

theorem State.dmaWord_ok_size {s : State} {off : Nat} {w : Word} (h : s.dmaWord off = .ok w) :
    off + 4 ≤ s.cfg.size := by
  unfold State.dmaWord at h
  split at h
  · assumption
  · simp at h

/-- What a settled rule answers when it answers a next state: its effect, or a raised fault. -/
theorem settle_next_iff {s t : State} {a : Attempt State} {done : State → State} :
    settle s a done = .next t ↔
      s.fault = none ∧ ((∃ u, a = .ok u ∧ t = done u) ∨ ∃ r, a = .error (.raise r) ∧ t = s.raiseFault r) := by
  unfold settle
  cases hf : s.fault with
  | some r => simp
  | none =>
    rcases a with (r | f) | u <;> simp [eq_comm]

/-- A settled rule whose pseudocode completes. -/
theorem settle_ok {s u : State} {a : Attempt State} {done : State → State} (hf : s.fault = none) (h : a = .ok u) :
    settle s a done = .next (done u) := by
  unfold settle; rw [hf, h]

/-- A settled rule whose pseudocode raises a fault. -/
theorem settle_raise {s : State} {a : Attempt State} {done : State → State} {r : FaultRecord}
    (hf : s.fault = none) (h : a = .error (.raise r)) : settle s a done = .next (s.raiseFault r) := by
  unfold settle; rw [hf, h]

theorem command_next_iff {s t : State} {body : State → Attempt State} :
    command s body = .next t ↔
      s.fault = none ∧ ((∃ u, body s = .ok u ∧ t = u.advancePc) ∨ ∃ r, body s = .error (.raise r) ∧ t = s.raiseFault r) :=
  settle_next_iff

theorem dmaStep_next_iff {s t : State} {body : State → Attempt State} :
    dmaStep s body = .next t ↔
      s.fault = none ∧ ((body s = .ok t) ∨ ∃ r, body s = .error (.raise r) ∧ t = s.raiseFault r) := by
  unfold dmaStep
  rw [settle_next_iff]
  simp

theorem command_ok {s u : State} {body : State → Attempt State} (hf : s.fault = none) (h : body s = .ok u) :
    command s body = .next u.advancePc := settle_ok hf h

theorem command_raise {s : State} {body : State → Attempt State} {r : FaultRecord} (hf : s.fault = none)
    (h : body s = .error (.raise r)) : command s body = .next (s.raiseFault r) := settle_raise hf h

theorem dmaStep_ok {s u : State} {body : State → Attempt State} (hf : s.fault = none) (h : body s = .ok u) :
    dmaStep s body = .next u := settle_ok hf h

theorem dmaStep_raise {s : State} {body : State → Attempt State} {r : FaultRecord} (hf : s.fault = none)
    (h : body s = .error (.raise r)) : dmaStep s body = .next (s.raiseFault r) := settle_raise hf h

theorem requireNoHandle_ok_iff {i : Instr} {s : State} {u : Unit} :
    requireNoHandle i s = .ok u ↔ s.hrx = .none ∧ s.htx = .none := require_ok_iff

end Sys2Proof.Machine
end

