-- ==== Sys2Proof/Laws/Dma.lean ====
section
/-! SUPPORT. What each step of the DMA agent needs to complete, and the state it leaves. -/

namespace Sys2Proof.Machine

theorem dmaBuffer_ok_iff {ring : Ring} {a n : Nat} {s : State} {off : Nat} :
    dmaBuffer ring a n s = .ok off ↔
      s.cfg.paBase ≤ a ∧ a + n ≤ s.cfg.paBase + s.cfg.size ∧ off = a - s.cfg.paBase := by
  unfold dmaBuffer dmaRange?
  by_cases h : s.cfg.paBase ≤ a ∧ a + n ≤ s.cfg.paBase + s.cfg.size
  · rw [if_pos h]; simp [h, eq_comm]
  · rw [if_neg h]; simp; intro h1 h2; exact absurd ⟨h1, h2⟩ h

theorem dmaAdvance_ok_iff {ring : Ring} {i : Nat} {e : Bool} {s : State} {j : Nat} :
    dmaAdvance ring i e s = .ok j ↔ dmaNext? s.cfg.n i e = some j := by
  unfold dmaAdvance
  cases dmaNext? s.cfg.n i e <;> simp

theorem rxHead_ok_iff {s : State} {h : Nat} {L : Layout} {w : Word} :
    rxHead s = .ok (h, L, w) ↔ s.hwRxIdx = some h ∧ s.layout = some L ∧ s.dmaWord (L.rxdOff h) = .ok w := by
  simp only [rxHead, Attempt.bind_ok_iff, known_ok_iff, State.layoutOf_ok_iff, Except.ok.injEq, Prod.mk.injEq]
  constructor
  · rintro ⟨_, h1, _, h2, _, h3, rfl, rfl, rfl⟩; exact ⟨h1, h2, h3⟩
  · rintro ⟨h1, h2, h3⟩; exact ⟨h, h1, L, h2, w, h3, rfl, rfl, rfl⟩

theorem txTail_ok_iff {s : State} {t : Nat} {L : Layout} {w : Word} :
    txTail s = .ok (t, L, w) ↔ s.hwTxIdx = some t ∧ s.layout = some L ∧ s.dmaWord (L.txd1Off t) = .ok w := by
  simp only [txTail, Attempt.bind_ok_iff, known_ok_iff, State.layoutOf_ok_iff, Except.ok.injEq, Prod.mk.injEq]
  constructor
  · rintro ⟨_, h1, _, h2, _, h3, rfl, rfl, rfl⟩; exact ⟨h1, h2, h3⟩
  · rintro ⟨h1, h2, h3⟩; exact ⟨t, h1, L, h2, w, h3, rfl, rfl, rfl⟩

@[simp] theorem State.frameDraw_length (s : State) : s.frameDraw.length = s.cfg.mtu := by simp [State.frameDraw]

@[simp] theorem State.frameAt_length (s : State) (off n : Nat) : (s.frameAt off n).length = n := by
  simp [State.frameAt]

theorem dmaStoreFrame_ok_iff {h : Nat} {L : Layout} {w : Word} {s t : State} :
    dmaStoreFrame h L w s = .ok t ↔ ∃ j, s.cfg.paBase ≤ (rxAddr w).toNat ∧
      (rxAddr w).toNat + s.cfg.mtu ≤ s.cfg.paBase + s.cfg.size ∧ dmaNext? s.cfg.n h (rxWrap w) = some j ∧
      L.rxdOff h + 4 ≤ s.cfg.size ∧
      t = { s with
        mem := (s.mem.store ((rxAddr w).toNat - s.cfg.paBase) s.frameDraw).writeWord (L.rxdOff h) (rxFilled w),
        hwRxIdx := some j, rxComplete := true } := by
  simp only [dmaStoreFrame, Attempt.bind_ok_iff, dmaBuffer_ok_iff, dmaAdvance_ok_iff, State.storeBytes_ok_iff,
    State.storeWord_ok_iff, State.frameDraw_length, Except.ok.injEq]
  constructor
  · rintro ⟨_, ⟨h1, h2, rfl⟩, j, h3, _, ⟨_, rfl⟩, _, ⟨h4, rfl⟩, rfl⟩
    exact ⟨j, h1, h2, h3, h4, rfl⟩
  · rintro ⟨j, h1, h2, h3, h4, rfl⟩
    exact ⟨_, ⟨h1, h2, rfl⟩, j, h3, _, ⟨by omega, rfl⟩, _, ⟨h4, rfl⟩, rfl⟩

theorem dmaSendFrame_ok_iff {i : Nat} {L : Layout} {w : Word} {s t : State} :
    dmaSendFrame i L w s = .ok t ↔ s.txClaim.map Claim.slot ≠ some i ∧ ∃ a j, s.dmaWord (L.txd0Off i) = .ok a ∧
      s.cfg.paBase ≤ a.toNat ∧ a.toNat + txLen w ≤ s.cfg.paBase + s.cfg.size ∧
      dmaNext? s.cfg.n i (txWrap w) = some j ∧ L.txd1Off i + 4 ≤ s.cfg.size ∧
      t = { s with
        mem := s.mem.writeWord (L.txd1Off i) (txSent w s.statDraw),
        wireTx := s.wireTx ++ [s.frameAt (a.toNat - s.cfg.paBase) (txLen w)], hwTxIdx := some j,
        txComplete := true } := by
  simp only [dmaSendFrame, requireCommitted, Attempt.bind_ok_iff, require_ok_iff, dmaBuffer_ok_iff,
    dmaAdvance_ok_iff, State.storeWord_ok_iff, Except.ok.injEq]
  constructor
  · rintro ⟨_, h0, a, h1, _, ⟨h2, h3, rfl⟩, j, h4, _, ⟨h5, rfl⟩, rfl⟩
    exact ⟨h0, a, j, h1, h2, h3, h4, h5, rfl⟩
  · rintro ⟨h0, a, j, h1, h2, h3, h4, h5, rfl⟩
    exact ⟨(), h0, a, h1, _, ⟨h2, h3, rfl⟩, j, h4, _, ⟨h5, rfl⟩, rfl⟩

end Sys2Proof.Machine
end

