-- ==== Sys2Proof/Laws/Rings.lean ====
section
/-! SUPPORT. What each rule of the allocator and of the two rings needs to complete, and the state it leaves. -/

namespace Sys2Proof.Machine

theorem requireAligned_ok_iff {L : Layout} {u : Unit} : requireAligned L = .ok u ↔ L.firstMisaligned = none := by
  unfold requireAligned
  cases L.firstMisaligned <;> simp

theorem layoutOp_ok_iff {s t : State} :
    layoutOp s = .ok t ↔ s.layoutSet = false ∧ layoutAccepts s.cfg ∧
      t = { s with layout := some (layoutFor s.cfg), layoutSet := true, st := some .ok } := by
  simp only [layoutOp, Attempt.bind_ok_iff, require_ok_iff, requireAligned_ok_iff, layoutAccepts, exists_and_left,
    exists_const, Except.ok.injEq, and_assoc, eq_comm (b := t)]

theorem flatMap_length_const {α β : Type} {f : α → List β} {k : Nat} (l : List α) (h : ∀ a, (f a).length = k) :
    (l.flatMap f).length = k * l.length := by
  induction l with
  | nil => simp
  | cons a l ih => simp only [List.flatMap_cons, List.length_append, h, ih, List.length_cons]; ring

/-- Element `j` of chunk `i`, where every chunk has `k` elements. -/
theorem flatMap_range_getElem {β : Type} {f : Nat → List β} {k : Nat} (h : ∀ a, (f a).length = k) {n i j : Nat}
    (hi : i < n) (hj : j < k) : ((List.range n).flatMap f)[k * i + j]? = (f i)[j]? := by
  induction n with
  | zero => omega
  | succ n ih =>
    have hlen : ((List.range n).flatMap f).length = k * n := by rw [flatMap_length_const _ h, List.length_range]
    rw [List.range_succ, List.flatMap_append, List.flatMap_singleton]
    by_cases hin : i < n
    · rw [List.getElem?_append_left, ih hin]
      rw [hlen]
      have : k * i + k ≤ k * n := by rw [← Nat.mul_succ]; exact Nat.mul_le_mul_left k hin
      omega
    · have : i = n := by omega
      subst this
      rw [List.getElem?_append_right (by omega), hlen, Nat.add_sub_cancel_left]

@[simp] theorem rxTable_length (c : Config) (L : Layout) : (rxTable c L).length = Config.RXD * c.n := by
  unfold rxTable
  rw [flatMap_length_const (k := 4) _ (fun _ => rfl), List.length_range]

@[simp] theorem txEntryBytes_length (c : Config) (L : Layout) (i : Nat) : (txEntryBytes c L i).length = 8 := rfl

@[simp] theorem txTable_length (c : Config) (L : Layout) : (txTable c L).length = Config.TXD * c.n := by
  unfold txTable
  rw [flatMap_length_const (k := 8) _ (txEntryBytes_length c L), List.length_range]

/-- The stored RX table holds every slot's word. -/
theorem readWord_store_rxTable (m : Memory) (c : Config) (L : Layout) {i : Nat} (hi : i < c.n) :
    (m.store (L.rxdOff 0) (rxTable c L)).readWord (L.rxdOff i) = some (rxEntry c L i) := by
  have e : L.rxdOff i = L.rxdOff 0 + 4 * i := by simp [Layout.rxdOff]
  rw [e]
  exact Memory.readWord_store_word fun j hj => flatMap_range_getElem (k := 4) (fun _ => rfl) hi hj

/-- The stored TX table holds every slot's address word. -/
theorem readWord_store_txTable_addr (m : Memory) (c : Config) (L : Layout) {i : Nat} (hi : i < c.n) :
    (m.store (L.txd0Off 0) (txTable c L)).readWord (L.txd0Off i) = some (paWord (L.txbPa c.mtu i)) := by
  have e : L.txd0Off i = L.txd0Off 0 + 8 * i := by simp [Layout.txd0Off]
  rw [e]
  refine Memory.readWord_store_word fun j hj => ?_
  rw [txTable, flatMap_range_getElem (txEntryBytes_length c L) hi (by omega), txEntryBytes,
    List.getElem?_append_left (by simpa using hj)]

/-- The stored TX table holds every slot's status word. -/
theorem readWord_store_txTable_status (m : Memory) (c : Config) (L : Layout) {i : Nat} (hi : i < c.n) :
    (m.store (L.txd0Off 0) (txTable c L)).readWord (L.txd1Off i) = some (txSetupStatus (i + 1 == c.n)) := by
  have e : L.txd1Off i = L.txd0Off 0 + (8 * i + 4) := by simp [Layout.txd0Off, Layout.txd1Off, Nat.add_assoc]
  rw [e]
  refine Memory.readWord_store_word fun j hj => ?_
  rw [Nat.add_assoc, txTable, flatMap_range_getElem (txEntryBytes_length c L) hi (by omega), txEntryBytes,
    List.getElem?_append_right (by simp)]
  simp

theorem rxSetupOp_ok_iff {s t : State} :
    rxSetupOp s = .ok t ↔ s.layoutSet = true ∧ s.rxState = .uninit ∧ ∃ L, s.layout = some L ∧
      L.rxdOff 0 + Config.RXD * s.cfg.n ≤ s.cfg.size ∧
      t = { s with
        mem := s.mem.store (L.rxdOff 0) (rxTable s.cfg L), rxCursor := some 0, rxBorrow := none, rxState := .ready,
        st := some .ok } := by
  simp only [rxSetupOp, Attempt.bind_ok_iff, require_ok_iff, State.layoutOf_ok_iff, State.storeBytes_ok_iff,
    rxTable_length, exists_and_left, exists_const, exists_eq_left, and_assoc, Except.ok.injEq, eq_comm (b := t)]

theorem rxCursorWord_ok_iff {i : Instr} {s : State} {c : Nat} {L : Layout} {w : Word} :
    rxCursorWord i s = .ok (c, L, w) ↔ s.rxState = .ready ∧ s.rxCursor = some c ∧ s.layout = some L ∧
      L.rxdOff c + 4 ≤ s.cfg.size ∧ s.mem.readWord (L.rxdOff c) = some w := by
  simp only [rxCursorWord, Attempt.bind_ok_iff, require_ok_iff, known_ok_iff, State.layoutOf_ok_iff,
    State.loadWord_ok_iff, Except.ok.injEq, Prod.mk.injEq]
  constructor
  · rintro ⟨_, h1, c', h2, L', h3, w', ⟨h4, h5⟩, rfl, rfl, rfl⟩
    exact ⟨h1, h2, h3, h4, h5⟩
  · rintro ⟨h1, h2, h3, h4, h5⟩
    exact ⟨(), h1, c, h2, L, h3, w, ⟨h4, h5⟩, rfl, rfl, rfl⟩

theorem requireNoBorrow_ok_iff {s : State} {u : Unit} : requireNoBorrow s = .ok u ↔ s.rxBorrow = none := by
  unfold requireNoBorrow
  cases s.rxBorrow <;> simp

theorem rxRecvNextOp_ok_iff {s t : State} :
    rxRecvNextOp s = .ok t ↔ s.rxBorrow = none ∧ ∃ c L w, rxCursorWord .rxRecvNext s = .ok (c, L, w) ∧
      rxOwn w = true ∧
      t = { s with rxBorrow := some c, res := some (vaWord (L.rxbVa s.cfg.mtu c)), st := some .ok } := by
  simp only [rxRecvNextOp, Attempt.bind_ok_iff, require_ok_iff, requireNoBorrow_ok_iff, Except.ok.injEq, Prod.exists]
  constructor
  · rintro ⟨_, _, _, h1, c, L, w, h2, _, h3, rfl⟩
    exact ⟨h1, c, L, w, h2, h3, rfl⟩
  · rintro ⟨h1, c, L, w, h2, h3, rfl⟩
    exact ⟨(), (rxCursorWord_ok_iff.mp h2).1, (), h1, c, L, w, h2, (), h3, rfl⟩

theorem rxMarkDoneOp_ok_iff {s t : State} :
    rxMarkDoneOp s = .ok t ↔ ∃ c L w, rxCursorWord .rxMarkDone s = .ok (c, L, w) ∧ rxOwn w = true ∧
      t = { s with
        mem := s.mem.writeWord (L.rxdOff c) (rxReleased w), rxBorrow := none,
        rxCursor := some (cursorNext s.cfg.n c), st := some .ok } := by
  simp only [rxMarkDoneOp, Attempt.bind_ok_iff, require_ok_iff, State.storeWord_ok_iff, Except.ok.injEq, Prod.exists]
  constructor
  · rintro ⟨c, L, w, h1, _, h2, _, ⟨_, rfl⟩, rfl⟩
    exact ⟨c, L, w, h1, h2, rfl⟩
  · rintro ⟨c, L, w, h1, h2, rfl⟩
    exact ⟨c, L, w, h1, (), h2, _, ⟨(rxCursorWord_ok_iff.mp h1).2.2.2.1, rfl⟩, rfl⟩

theorem txSetupOp_ok_iff {s t : State} :
    txSetupOp s = .ok t ↔ s.layoutSet = true ∧ s.txState = .uninit ∧ ∃ L, s.layout = some L ∧
      L.txd0Off 0 + Config.TXD * s.cfg.n ≤ s.cfg.size ∧
      t = { s with
        mem := s.mem.store (L.txd0Off 0) (txTable s.cfg L), txCursor := some 0, txClaim := none, txState := .ready,
        st := some .ok } := by
  simp only [txSetupOp, Attempt.bind_ok_iff, require_ok_iff, State.layoutOf_ok_iff, State.storeBytes_ok_iff,
    txTable_length, exists_and_left, exists_const, exists_eq_left, and_assoc, Except.ok.injEq, eq_comm (b := t)]

theorem txCursorWord_ok_iff {s : State} {c : Nat} {L : Layout} {w : Word} :
    txCursorWord s = .ok (c, L, w) ↔ s.txCursor = some c ∧ s.layout = some L ∧ L.txd1Off c + 4 ≤ s.cfg.size ∧
      s.mem.readWord (L.txd1Off c) = some w := by
  simp only [txCursorWord, Attempt.bind_ok_iff, known_ok_iff, State.layoutOf_ok_iff, State.loadWord_ok_iff,
    Except.ok.injEq, Prod.mk.injEq]
  constructor
  · rintro ⟨c', h2, L', h3, w', ⟨h4, h5⟩, rfl, rfl, rfl⟩
    exact ⟨h2, h3, h4, h5⟩
  · rintro ⟨h2, h3, h4, h5⟩
    exact ⟨c, h2, L, h3, w, ⟨h4, h5⟩, rfl, rfl, rfl⟩

theorem requireNoClaim_ok_iff {s : State} {u : Unit} : requireNoClaim s = .ok u ↔ s.txClaim = none := by
  unfold requireNoClaim
  cases s.txClaim <;> simp

theorem txGetNextBufferOp_ok_iff {len : Nat} {s t : State} :
    txGetNextBufferOp len s = .ok t ↔ s.txState = .ready ∧ s.txClaim = none ∧ len ≤ s.cfg.mtu ∧
      ∃ c L w, txCursorWord s = .ok (c, L, w) ∧ txUsed w = true ∧
      t = { s with
        mem := s.mem.writeWord (L.txd1Off c) (txClaimed w len), txClaim := some { slot := c, len := len },
        res := some (vaWord (L.txbVa s.cfg.mtu c)), st := some .ok } := by
  simp only [txGetNextBufferOp, Attempt.bind_ok_iff, require_ok_iff, requireNoClaim_ok_iff, State.storeWord_ok_iff,
    Except.ok.injEq, Prod.exists]
  constructor
  · rintro ⟨_, h0, _, h1, _, h2, c, L, w, h3, _, h4, _, ⟨_, rfl⟩, rfl⟩
    exact ⟨h0, h1, h2, c, L, w, h3, h4, rfl⟩
  · rintro ⟨h0, h1, h2, c, L, w, h3, h4, rfl⟩
    exact ⟨(), h0, (), h1, (), h2, c, L, w, h3, (), h4, _, ⟨(txCursorWord_ok_iff.mp h3).2.2.1, rfl⟩, rfl⟩

theorem txSendCompleteOp_ok_iff {s t : State} {a : Word} :
    txSendCompleteOp s = .ok (t, a) ↔ s.txState = .ready ∧ ∃ c L, s.txCursor = some c ∧
      s.txClaim.map Claim.slot = some c ∧ s.layout = some L ∧ a = paWord (L.txdPa c) ∧
      t = { s with
        res := some (zext64 a), txCursor := some (cursorNext s.cfg.n c), txClaim := none, st := some .ok } := by
  simp only [txSendCompleteOp, Attempt.bind_ok_iff, require_ok_iff, known_ok_iff, State.layoutOf_ok_iff,
    Except.ok.injEq, Prod.mk.injEq]
  constructor
  · rintro ⟨_, h1, c, h2, _, h3, L, h4, rfl, rfl⟩
    exact ⟨h1, c, L, h2, h3, h4, rfl, rfl⟩
  · rintro ⟨h1, c, L, h2, h3, h4, rfl, rfl⟩
    exact ⟨(), h1, c, h2, (), h3, L, h4, rfl, rfl⟩

theorem dummySetupOp_ok_iff {s t : State} :
    dummySetupOp s = .ok t ↔ s.layoutSet = true ∧ s.dmyState = .uninit ∧ ∃ L, s.layout = some L ∧
      L.dmy0Off + Config.TXD ≤ s.cfg.size ∧
      t = { s with
        mem := (s.mem.writeWord L.dmy0Off 0).writeWord L.dmy1Off dummyStatus, dmyState := .ready,
        st := some .ok } := by
  simp only [dummySetupOp, Attempt.bind_ok_iff, require_ok_iff, State.layoutOf_ok_iff, State.storeWord_ok_iff,
    Except.ok.injEq]
  constructor
  · rintro ⟨_, h1, _, h2, L, h3, _, ⟨_, rfl⟩, _, ⟨h4, rfl⟩, rfl⟩
    refine ⟨h1, h2, L, h3, ?_, rfl⟩
    simp only [Layout.dmy1Off] at h4
    simp only [Layout.dmy0Off, Config.TXD]; omega
  · rintro ⟨h1, h2, L, h3, h4, rfl⟩
    simp only [Layout.dmy0Off, Config.TXD] at h4
    refine ⟨(), h1, (), h2, L, h3, _, ⟨?_, rfl⟩, _, ⟨?_, rfl⟩, rfl⟩
    · simp only [Layout.dmy0Off]; omega
    · simp only [Layout.dmy1Off]; omega

theorem devSetRxqBaseOp_ok_iff {pa : Word} {s t : State} :
    devSetRxqBaseOp pa s = .ok t ↔ s.rxqSet = false ∧ s.rxState = .ready ∧ ∃ L, s.layout = some L ∧
      pa.toNat = L.rxd.pa ∧
      t = { s with rxqBase := some pa, rxqSet := true, hwRxIdx := some 0, rxEnabled := true } := by
  simp only [devSetRxqBaseOp, Attempt.bind_ok_iff, require_ok_iff, State.layoutOf_ok_iff, exists_and_left,
    exists_const, Except.ok.injEq, eq_comm (b := t)]

theorem devSetTxqBaseOp_ok_iff {pa : Word} {s t : State} :
    devSetTxqBaseOp pa s = .ok t ↔ s.txqSet = false ∧ s.txState = .ready ∧ ∃ L, s.layout = some L ∧
      pa.toNat = L.txd.pa ∧
      t = { s with txqBase := some pa, txqSet := true, hwTxIdx := some 0, txRunning := false } := by
  simp only [devSetTxqBaseOp, Attempt.bind_ok_iff, require_ok_iff, State.layoutOf_ok_iff, exists_and_left,
    exists_const, Except.ok.injEq, eq_comm (b := t)]

theorem devSetTxq1BaseOp_ok_iff {pa : Word} {s t : State} :
    devSetTxq1BaseOp pa s = .ok t ↔ s.txq1Set = false ∧ s.dmyState = .ready ∧ ∃ L, s.layout = some L ∧
      pa.toNat = L.dmy.pa ∧ t = { s with txq1Base := some pa, txq1Set := true } := by
  simp only [devSetTxq1BaseOp, Attempt.bind_ok_iff, require_ok_iff, State.layoutOf_ok_iff, exists_and_left,
    exists_const, Except.ok.injEq, eq_comm (b := t)]

theorem devKickOp_ok_iff {pa : Word} {s t : State} :
    devKickOp pa s = .ok t ↔ s.txqSet = true ∧ ∃ L, s.layout = some L ∧ L.isTxDescriptor s.cfg.n pa = true ∧
      t = { s with txRunning := true } := by
  simp only [devKickOp, Attempt.bind_ok_iff, require_ok_iff, State.layoutOf_ok_iff, exists_and_left,
    exists_const, Except.ok.injEq, eq_comm (b := t)]

/-- The arithmetic check of a kick address says what the rule says: some slot's descriptor is there. -/
theorem Layout.isTxDescriptor_iff {L : Layout} {n : Nat} {pa : Word} :
    L.isTxDescriptor n pa = true ↔ ∃ i < n, pa.toNat = L.txdPa i := by
  simp only [Layout.isTxDescriptor, decide_eq_true_eq, Layout.txdPa, Config.TXD]
  constructor
  · rintro ⟨h1, h2, h3⟩
    exact ⟨_, h3, by omega⟩
  · rintro ⟨i, hi, h⟩
    refine ⟨by omega, ?_, ?_⟩
    · rw [h, Nat.add_sub_cancel_left, Nat.mul_mod_right]
    · rw [h, Nat.add_sub_cancel_left, Nat.mul_div_cancel_left _ (by omega)]; exact hi

theorem sliceByte_ok_iff {ring : Ring} {off : Nat} {s : State} {a : Nat} :
    sliceByte ring off s = .ok a ↔ ∃ i L, sliceSlot? ring off s.cfg.mtu s.rxBorrow s.txClaim = some i ∧
      s.layout = some L ∧ a = L.slotOff ring s.cfg.mtu i + off := by
  unfold sliceByte
  cases h : sliceSlot? ring off s.cfg.mtu s.rxBorrow s.txClaim with
  | none => simp
  | some i =>
    simp only [Attempt.bind_ok_iff, State.layoutOf_ok_iff, Except.ok.injEq, Option.some.injEq, eq_comm (b := a)]
    constructor
    · rintro ⟨L, h1, h2⟩; exact ⟨i, L, rfl, h1, h2⟩
    · rintro ⟨_, L, rfl, h1, h2⟩; exact ⟨L, h1, h2⟩

end Sys2Proof.Machine
end

