-- ==== Sys2Proof/Laws/Exec.lean ====
section
/-! SUPPORT. What every other rule needs to complete and the state it leaves, and what `exec` answers in terms of
the rule an instruction runs. -/

namespace Sys2Proof.Machine

theorem exclusive_ok_iff {i : Instr} {op : State → Attempt State} {s t : State} :
    exclusive i op s = .ok t ↔ s.hrx = .none ∧ s.htx = .none ∧ op s = .ok t := by
  simp only [exclusive, Attempt.bind_ok_iff, requireNoHandle_ok_iff, exists_const, and_assoc]

theorem rxAvailOp_ok_iff {s t : State} :
    rxAvailOp s = .ok t ↔ ∃ c L w, rxCursorWord .rxAvail s = .ok (c, L, w) ∧
      t = { s with res := some (if rxOwn w then 1 else 0), st := some .ok } := by
  simp only [rxAvailOp, Attempt.bind_ok_iff, Except.ok.injEq, Prod.exists, State.setRes, State.setSt,
    eq_comm (b := t)]

theorem txAvailOp_ok_iff {s t : State} :
    txAvailOp s = .ok t ↔ s.txState = .ready ∧ ∃ c L w, txCursorWord s = .ok (c, L, w) ∧
      t = { s with res := some (if txUsed w then 1 else 0), st := some .ok } := by
  simp only [txAvailOp, Attempt.bind_ok_iff, require_ok_iff, Except.ok.injEq, Prod.exists, State.setRes,
    State.setSt, eq_comm (b := t), exists_and_left, exists_const]

theorem txCommitOp_ok_iff {s t : State} :
    txCommitOp s = .ok t ↔ ∃ a, txSendCompleteOp s = .ok (t, a) := by
  simp only [txCommitOp, Attempt.bind_ok_iff, Except.ok.injEq, Prod.exists]
  constructor
  · rintro ⟨_, a, h, rfl⟩; exact ⟨a, h⟩
  · rintro ⟨a, h⟩; exact ⟨t, a, h, rfl⟩

theorem drvReceiveOp_ok_iff {s t : State} :
    drvReceiveOp s = .ok t ↔ s.constructed = true ∧ ∃ c L rw d M tw,
      rxCursorWord .drvReceive s = .ok (c, L, rw) ∧ txCursorWord s = .ok (d, M, tw) ∧
      t = if rxOwn rw && txUsed tw then { s with hrx := .live, htx := .live, st := some .ok }
        else { s with st := some .notReady } := by
  simp only [drvReceiveOp, Attempt.bind_ok_iff, require_ok_iff, Except.ok.injEq, Prod.exists, State.setSt]
  constructor
  · rintro ⟨_, h1, c, L, rw, h2, d, M, tw, h3, rfl⟩; exact ⟨h1, c, L, rw, d, M, tw, h2, h3, rfl⟩
  · rintro ⟨h1, c, L, rw, d, M, tw, h2, h3, rfl⟩; exact ⟨(), h1, c, L, rw, h2, d, M, tw, h3, rfl⟩

theorem drvTransmitOp_ok_iff {s t : State} :
    drvTransmitOp s = .ok t ↔ s.constructed = true ∧ ∃ c L w, txCursorWord s = .ok (c, L, w) ∧
      t = if txUsed w then { s with htx := .live, st := some .ok } else { s with st := some .notReady } := by
  simp only [drvTransmitOp, Attempt.bind_ok_iff, require_ok_iff, Except.ok.injEq, Prod.exists, State.setSt,
    exists_and_left, exists_const, eq_comm (b := t)]

theorem rxhBeginOp_ok_iff {s t : State} :
    rxhBeginOp s = .ok t ↔ s.hrx = .live ∧ s.htx ≠ .active ∧ ∃ u, rxRecvNextOp s = .ok u ∧
      t = { u with hrx := .active } := by
  simp only [rxhBeginOp, Attempt.bind_ok_iff, require_ok_iff, Except.ok.injEq, exists_and_left, exists_const,
    eq_comm (b := t)]

theorem rxhEndOp_ok_iff {r : Word} {s t : State} :
    rxhEndOp r s = .ok t ↔ s.hrx = .active ∧ ∃ u, rxMarkDoneOp s = .ok u ∧
      t = { u with hrx := .none, res := some (zext64 r), st := some .ok } := by
  simp only [rxhEndOp, Attempt.bind_ok_iff, require_ok_iff, Except.ok.injEq, exists_and_left, exists_const,
    eq_comm (b := t)]

/-- A transmit handle's BEGIN: within `MTU`, truncated, or rejected. -/
theorem txhBeginOp_ok_iff {len : Word} {s t : State} :
    txhBeginOp len s = .ok t ↔ s.htx = .live ∧ s.hrx ≠ .active ∧
      ((lenOf len ≤ s.cfg.mtu ∧ ∃ u, txGetNextBufferOp (lenOf len) s = .ok u ∧ t = { u with htx := .active }) ∨
       (s.cfg.mtu < lenOf len ∧ s.cfg.oversizePolicy = .truncate ∧
          ∃ u, txGetNextBufferOp s.cfg.mtu { s with oversizeMarker := true } = .ok u ∧
            t = { u with htx := .active }) ∨
       (s.cfg.mtu < lenOf len ∧ s.cfg.oversizePolicy = .reject ∧
          t = { s with htx := .none, st := some .rejected })) := by
  simp only [txhBeginOp, Attempt.bind_ok_iff, require_ok_iff, exists_and_left, exists_const]
  refine and_congr_right fun _ => and_congr_right fun _ => ?_
  by_cases h : lenOf len ≤ s.cfg.mtu
  · simp only [h, if_true, Attempt.bind_ok_iff, Except.ok.injEq, true_and, Nat.not_lt.mpr h, false_and, or_false,
      eq_comm (b := t)]
  · have h' := Nat.not_le.mp h
    cases hp : s.cfg.oversizePolicy <;>
      simp only [h, h', if_false, Attempt.bind_ok_iff, Except.ok.injEq, true_and, false_and, false_or, or_false,
        reduceCtorEq, eq_comm (b := t)]

theorem txhEndOp_ok_iff {r : Word} {s t : State} :
    txhEndOp r s = .ok t ↔ s.htx = .active ∧ ∃ u a v, txSendCompleteOp s = .ok (u, a) ∧ devKickOp a u = .ok v ∧
      t = { v with htx := .none, res := some (zext64 r), st := some .ok } := by
  simp only [txhEndOp, Attempt.bind_ok_iff, require_ok_iff, Except.ok.injEq, Prod.exists, exists_and_left,
    exists_const, eq_comm (b := t)]

theorem handleDropOp_rx_ok_iff {s t : State} :
    handleDropOp .rx s = .ok t ↔ s.hrx = .live ∧ t = { s with hrx := .none, st := some .ok } := by
  simp only [handleDropOp, Attempt.bind_ok_iff, require_ok_iff, Except.ok.injEq, exists_and_left, exists_const,
    eq_comm (b := t)]

theorem handleDropOp_tx_ok_iff {s t : State} :
    handleDropOp .tx s = .ok t ↔ s.htx = .live ∧ t = { s with htx := .none, st := some .ok } := by
  simp only [handleDropOp, Attempt.bind_ok_iff, require_ok_iff, Except.ok.injEq, exists_and_left, exists_const,
    eq_comm (b := t)]

theorem bufRdOp_ok_iff {ring : Ring} {off : BitVec 16} {s t : State} :
    bufRdOp ring off s = .ok t ↔ ∃ a b, sliceByte ring off.toNat s = .ok a ∧ a + 1 ≤ s.cfg.size ∧
      s.mem.read a = some b ∧ t = { s with res := some (b.setWidth 64), st := some .ok } := by
  simp only [bufRdOp, Attempt.bind_ok_iff, State.loadByte_ok_iff, Except.ok.injEq, State.setRes, State.setSt,
    exists_and_left, and_assoc, eq_comm (b := t)]

theorem bufWrOp_ok_iff {ring : Ring} {off : BitVec 16} {byte : Byte} {s t : State} :
    bufWrOp ring off byte s = .ok t ↔ ∃ a, sliceByte ring off.toNat s = .ok a ∧ a + 1 ≤ s.cfg.size ∧
      t = { s with mem := s.mem.store a [byte], st := some .ok } := by
  simp only [bufWrOp, Attempt.bind_ok_iff, State.storeBytes_ok_iff, Except.ok.injEq, State.setSt,
    List.length_singleton]
  constructor
  · rintro ⟨a, h1, _, ⟨h2, rfl⟩, rfl⟩; exact ⟨a, h1, h2, rfl⟩
  · rintro ⟨a, h1, h2, rfl⟩; exact ⟨a, h1, _, ⟨h2, rfl⟩, rfl⟩

theorem simRxSetOwnOp_ok_iff {idx : Word} {s t : State} :
    simRxSetOwnOp idx s = .ok t ↔ s.cfg.harness = true ∧ idx.toNat < s.cfg.n ∧ s.rxState = .ready ∧
      ∃ L w, s.layout = some L ∧ L.rxdOff idx.toNat + 4 ≤ s.cfg.size ∧
        s.mem.readWord (L.rxdOff idx.toNat) = some w ∧
        t = { s with mem := s.mem.writeWord (L.rxdOff idx.toNat) (rxFilled w) } := by
  simp only [simRxSetOwnOp, requireHarness, Instr.wellFormed, Attempt.bind_ok_iff, require_ok_iff,
    State.layoutOf_ok_iff, State.loadWord_ok_iff, State.storeWord_ok_iff, Bool.and_eq_true, decide_eq_true_eq]
  constructor
  · rintro ⟨_, ⟨h0, h1⟩, _, h2, L, h3, w, ⟨h4, h5⟩, _, rfl⟩; exact ⟨h0, h1, h2, L, w, h3, h4, h5, rfl⟩
  · rintro ⟨h0, h1, h2, L, w, h3, h4, h5, rfl⟩; exact ⟨(), ⟨h0, h1⟩, (), h2, L, h3, w, ⟨h4, h5⟩, h4, rfl⟩

theorem simTxSetOwnOp_ok_iff {idx : Word} {s t : State} :
    simTxSetOwnOp idx s = .ok t ↔ s.cfg.harness = true ∧ idx.toNat < s.cfg.n ∧ s.txState = .ready ∧
      ∃ L w, s.layout = some L ∧ L.txd1Off idx.toNat + 4 ≤ s.cfg.size ∧
        s.mem.readWord (L.txd1Off idx.toNat) = some w ∧
        t = { s with mem := s.mem.writeWord (L.txd1Off idx.toNat) (txReturned w) } := by
  simp only [simTxSetOwnOp, requireHarness, Instr.wellFormed, Attempt.bind_ok_iff, require_ok_iff,
    State.layoutOf_ok_iff, State.loadWord_ok_iff, State.storeWord_ok_iff, Bool.and_eq_true, decide_eq_true_eq]
  constructor
  · rintro ⟨_, ⟨h0, h1⟩, _, h2, L, h3, w, ⟨h4, h5⟩, _, rfl⟩; exact ⟨h0, h1, h2, L, w, h3, h4, h5, rfl⟩
  · rintro ⟨h0, h1, h2, L, w, h3, h4, h5, rfl⟩; exact ⟨(), ⟨h0, h1⟩, (), h2, L, h3, w, ⟨h4, h5⟩, h4, rfl⟩

theorem dmaRxFrameOp_ok_iff {s t : State} :
    dmaRxFrameOp s = .ok t ↔ (s.rxEnabled = false ∧ t = s) ∨
      (s.rxEnabled = true ∧ ∃ h L w, rxHead s = .ok (h, L, w) ∧
        ((rxOwn w = true ∧ t = s) ∨ (rxOwn w = false ∧ dmaStoreFrame h L w s = .ok t))) := by
  unfold dmaRxFrameOp
  cases s.rxEnabled
  · simp [eq_comm (a := s) (b := t)]
  · simp only [if_true, Attempt.bind_ok_iff, Prod.exists, Bool.true_eq_false, false_and, false_or, true_and]
    refine exists_congr fun h => exists_congr fun L => exists_congr fun w => and_congr_right fun _ => ?_
    cases rxOwn w <;> simp [eq_comm (a := s) (b := t)]

theorem dmaRxDropOp_ok_iff {s t : State} :
    dmaRxDropOp s = .ok t ↔ t = s ∧ (s.rxEnabled = true → ∃ x, rxHead s = .ok x) := by
  unfold dmaRxDropOp
  cases s.rxEnabled
  · simp [eq_comm (a := s) (b := t)]
  · simp only [if_true, Attempt.bind_ok_iff, Except.ok.injEq, forall_const]
    constructor
    · rintro ⟨x, h, rfl⟩; exact ⟨rfl, x, h⟩
    · rintro ⟨rfl, x, h⟩; exact ⟨x, h, rfl⟩

theorem dmaTxFrameOp_ok_iff {s t : State} :
    dmaTxFrameOp s = .ok t ↔ (s.txRunning = false ∧ t = s) ∨
      (s.txRunning = true ∧ ∃ i L w, txTail s = .ok (i, L, w) ∧
        ((txUsed w = true ∧ t = s) ∨ (txUsed w = false ∧ dmaSendFrame i L w s = .ok t))) := by
  unfold dmaTxFrameOp
  cases s.txRunning
  · simp [eq_comm (a := s) (b := t)]
  · simp only [if_true, Attempt.bind_ok_iff, Prod.exists, Bool.true_eq_false, false_and, false_or, true_and]
    refine exists_congr fun h => exists_congr fun L => exists_congr fun w => and_congr_right fun _ => ?_
    cases txUsed w <;> simp [eq_comm (a := s) (b := t)]

theorem dmaTxStopOp_ok_iff {s t : State} :
    dmaTxStopOp s = .ok t ↔ (s.txRunning = false ∧ t = s) ∨
      (s.txRunning = true ∧ ∃ i L w, txTail s = .ok (i, L, w) ∧
        t = if txUsed w then { s with txRunning := false } else s) := by
  unfold dmaTxStopOp
  cases s.txRunning
  · simp [eq_comm (a := s) (b := t)]
  · simp [Attempt.bind_ok_iff, Prod.exists, eq_comm (b := t)]

/-- The rule an instruction runs: what `exec` settles. -/
def bodyOf : Instr → State → Attempt State
  | .layout => exclusive .layout layoutOp
  | .rxSetup => exclusive .rxSetup rxSetupOp
  | .rxAvail => rxAvailOp
  | .rxRecvNext => exclusive .rxRecvNext rxRecvNextOp
  | .rxMarkDone => exclusive .rxMarkDone rxMarkDoneOp
  | .txSetup => exclusive .txSetup txSetupOp
  | .txAvail => txAvailOp
  | .txGetNextBuffer len => exclusive (.txGetNextBuffer len) (txGetNextBufferOp (lenOf len))
  | .txSendComplete => exclusive .txSendComplete txCommitOp
  | .dummySetup => exclusive .dummySetup dummySetupOp
  | .drvInit => exclusive .drvInit drvInitOp
  | .drvReceive => exclusive .drvReceive drvReceiveOp
  | .drvTransmit => exclusive .drvTransmit drvTransmitOp
  | .rxhBegin => rxhBeginOp
  | .rxhEnd r => rxhEndOp r
  | .txhBegin len => txhBeginOp len
  | .txhEnd r => txhEndOp r
  | .handleDrop which => handleDropOp which
  | .drvCaps => drvCapsOp
  | .drvClassifyIrq => drvClassifyIrqOp
  | .bufRd ring off => bufRdOp ring off
  | .bufWr ring off byte => bufWrOp ring off byte
  | .devSetRxqBase pa => exclusive (.devSetRxqBase pa) (devSetRxqBaseOp pa)
  | .devSetTxqBase pa => exclusive (.devSetTxqBase pa) (devSetTxqBaseOp pa)
  | .devSetTxq1Base pa => exclusive (.devSetTxq1Base pa) (devSetTxq1BaseOp pa)
  | .devKick pa => devKickOp pa
  | .devClearIrq => devClearIrqOp
  | .simRxSetOwn idx => simRxSetOwnOp idx
  | .simTxSetOwn idx => simTxSetOwnOp idx
  | .dmaRxFrame => dmaRxFrameOp
  | .dmaRxDrop => dmaRxDropOp
  | .dmaTxFrame => dmaTxFrameOp
  | .dmaTxStop => dmaTxStopOp

/-- `pc` past an instruction that did not fault. -/
def Instr.done (i : Instr) (s : State) : State := if i.isCommand then s.advancePc else s

/-- `exec` settles the instruction's rule. -/
theorem exec_eq_settle (i : Instr) (s : State) : exec i s = settle s (bodyOf i s) (Instr.done i) := by
  cases i <;> rfl

/-- What `exec` answers when it answers a next state: the rule's effect, or its fault raised. -/
theorem exec_next_iff {i : Instr} {s t : State} :
    exec i s = .next t ↔
      s.fault = none ∧ ((∃ u, bodyOf i s = .ok u ∧ t = Instr.done i u) ∨
        ∃ r, bodyOf i s = .error (.raise r) ∧ t = s.raiseFault r) := by
  rw [exec_eq_settle, settle_next_iff]

/-- `exec` where the rule completes. -/
theorem exec_of_ok {i : Instr} {s u : State} (hf : s.fault = none) (h : bodyOf i s = .ok u) :
    exec i s = .next (Instr.done i u) := by
  rw [exec_eq_settle]; exact settle_ok hf h

/-- `exec` where the rule raises a fault. -/
theorem exec_of_raise {i : Instr} {s : State} {r : FaultRecord} (hf : s.fault = none)
    (h : bodyOf i s = .error (.raise r)) : exec i s = .next (s.raiseFault r) := by
  rw [exec_eq_settle]; exact settle_raise hf h

/-- The fields no rule writes. -/
structure SameFixed (s t : State) : Prop where
  fault : t.fault = s.fault
  cfg : t.cfg = s.cfg
  program : t.program = s.program
  pc : t.pc = s.pc
  agenda : t.agenda = s.agenda
  turn : t.turn = s.turn
  draw : t.draw = s.draw

theorem SameFixed.trans {s t u : State} (h : SameFixed s t) (k : SameFixed t u) : SameFixed s u :=
  ⟨k.fault.trans h.fault, k.cfg.trans h.cfg, k.program.trans h.program, k.pc.trans h.pc, k.agenda.trans h.agenda,
    k.turn.trans h.turn, k.draw.trans h.draw⟩

theorem layoutOp_fixed {s t : State} (h : layoutOp s = .ok t) : SameFixed s t := by
  obtain ⟨_, _, rfl⟩ := layoutOp_ok_iff.mp h; constructor <;> rfl

theorem rxSetupOp_fixed {s t : State} (h : rxSetupOp s = .ok t) : SameFixed s t := by
  obtain ⟨_, _, _, _, _, rfl⟩ := rxSetupOp_ok_iff.mp h; constructor <;> rfl

theorem txSetupOp_fixed {s t : State} (h : txSetupOp s = .ok t) : SameFixed s t := by
  obtain ⟨_, _, _, _, _, rfl⟩ := txSetupOp_ok_iff.mp h; constructor <;> rfl

theorem dummySetupOp_fixed {s t : State} (h : dummySetupOp s = .ok t) : SameFixed s t := by
  obtain ⟨_, _, _, _, _, rfl⟩ := dummySetupOp_ok_iff.mp h; constructor <;> rfl

theorem devSetRxqBaseOp_fixed {pa : Word} {s t : State} (h : devSetRxqBaseOp pa s = .ok t) : SameFixed s t := by
  obtain ⟨_, _, _, _, _, rfl⟩ := devSetRxqBaseOp_ok_iff.mp h; constructor <;> rfl

theorem devSetTxqBaseOp_fixed {pa : Word} {s t : State} (h : devSetTxqBaseOp pa s = .ok t) : SameFixed s t := by
  obtain ⟨_, _, _, _, _, rfl⟩ := devSetTxqBaseOp_ok_iff.mp h; constructor <;> rfl

theorem devSetTxq1BaseOp_fixed {pa : Word} {s t : State} (h : devSetTxq1BaseOp pa s = .ok t) : SameFixed s t := by
  obtain ⟨_, _, _, _, _, rfl⟩ := devSetTxq1BaseOp_ok_iff.mp h; constructor <;> rfl

theorem rxRecvNextOp_fixed {s t : State} (h : rxRecvNextOp s = .ok t) : SameFixed s t := by
  obtain ⟨_, _, _, _, _, _, rfl⟩ := rxRecvNextOp_ok_iff.mp h; constructor <;> rfl

theorem rxMarkDoneOp_fixed {s t : State} (h : rxMarkDoneOp s = .ok t) : SameFixed s t := by
  obtain ⟨_, _, _, _, _, rfl⟩ := rxMarkDoneOp_ok_iff.mp h; constructor <;> rfl

theorem txGetNextBufferOp_fixed {len : Nat} {s t : State} (h : txGetNextBufferOp len s = .ok t) :
    SameFixed s t := by
  obtain ⟨_, _, _, _, _, _, _, _, rfl⟩ := txGetNextBufferOp_ok_iff.mp h; constructor <;> rfl

theorem txSendCompleteOp_fixed {s t : State} {a : Word} (h : txSendCompleteOp s = .ok (t, a)) : SameFixed s t := by
  obtain ⟨_, _, _, _, _, _, _, rfl⟩ := txSendCompleteOp_ok_iff.mp h; constructor <;> rfl

/-- `DRV_INIT` is its seven steps one after another. -/
theorem drvInitOp_ok_iff {s t : State} :
    drvInitOp s = .ok t ↔ ∃ s1 s2 s3 s4 L s5 s6 s7, layoutOp s = .ok s1 ∧ rxSetupOp s1 = .ok s2 ∧
      txSetupOp s2 = .ok s3 ∧ dummySetupOp s3 = .ok s4 ∧ s4.layout = some L ∧
      devSetRxqBaseOp (paWord L.rxd.pa) s4 = .ok s5 ∧ devSetTxqBaseOp (paWord L.txd.pa) s5 = .ok s6 ∧
      devSetTxq1BaseOp (paWord L.dmy.pa) s6 = .ok s7 ∧ t = { s7 with st := some .ok } := by
  simp only [drvInitOp, Attempt.bind_ok_iff, State.layoutOf_ok_iff, Except.ok.injEq, State.setSt]
  constructor
  · rintro ⟨s1, h1, s2, h2, s3, h3, s4, h4, L, h5, s5, h6, s6, h7, s7, h8, rfl⟩
    exact ⟨s1, s2, s3, s4, L, s5, s6, s7, h1, h2, h3, h4, h5, h6, h7, h8, rfl⟩
  · rintro ⟨s1, s2, s3, s4, L, s5, s6, s7, h1, h2, h3, h4, h5, h6, h7, h8, rfl⟩
    exact ⟨s1, h1, s2, h2, s3, h3, s4, h4, L, h5, s5, h6, s6, h7, s7, h8, rfl⟩

theorem drvInitOp_fixed {s t : State} (h : drvInitOp s = .ok t) : SameFixed s t := by
  obtain ⟨s1, s2, s3, s4, L, s5, s6, s7, h1, h2, h3, h4, _, h6, h7, h8, rfl⟩ := drvInitOp_ok_iff.mp h
  have k := ((((((layoutOp_fixed h1).trans (rxSetupOp_fixed h2)).trans (txSetupOp_fixed h3)).trans
    (dummySetupOp_fixed h4)).trans (devSetRxqBaseOp_fixed h6)).trans (devSetTxqBaseOp_fixed h7)).trans
    (devSetTxq1BaseOp_fixed h8)
  exact ⟨k.fault, k.cfg, k.program, k.pc, k.agenda, k.turn, k.draw⟩

/-- No rule writes the fault record, the configuration, the program, `pc` or the environment's choices. -/
theorem bodyOf_fixed {i : Instr} {s t : State} (h : bodyOf i s = .ok t) : SameFixed s t := by
  cases i with
  | layout => exact layoutOp_fixed (exclusive_ok_iff.mp h).2.2
  | rxSetup => exact rxSetupOp_fixed (exclusive_ok_iff.mp h).2.2
  | rxAvail => obtain ⟨_, _, _, _, rfl⟩ := rxAvailOp_ok_iff.mp h; constructor <;> rfl
  | rxRecvNext => exact rxRecvNextOp_fixed (exclusive_ok_iff.mp h).2.2
  | rxMarkDone => exact rxMarkDoneOp_fixed (exclusive_ok_iff.mp h).2.2
  | txSetup => exact txSetupOp_fixed (exclusive_ok_iff.mp h).2.2
  | txAvail => obtain ⟨_, _, _, _, _, rfl⟩ := txAvailOp_ok_iff.mp h; constructor <;> rfl
  | txGetNextBuffer len => exact txGetNextBufferOp_fixed (exclusive_ok_iff.mp h).2.2
  | txSendComplete =>
    obtain ⟨_, k⟩ := txCommitOp_ok_iff.mp (exclusive_ok_iff.mp h).2.2
    exact txSendCompleteOp_fixed k
  | dummySetup => exact dummySetupOp_fixed (exclusive_ok_iff.mp h).2.2
  | drvInit => exact drvInitOp_fixed (exclusive_ok_iff.mp h).2.2
  | drvReceive =>
    obtain ⟨_, _, _, rw, _, _, tw, _, _, rfl⟩ := drvReceiveOp_ok_iff.mp (exclusive_ok_iff.mp h).2.2
    split <;> constructor <;> rfl
  | drvTransmit =>
    obtain ⟨_, _, _, w, _, rfl⟩ := drvTransmitOp_ok_iff.mp (exclusive_ok_iff.mp h).2.2
    split <;> constructor <;> rfl
  | rxhBegin =>
    obtain ⟨_, _, u, k, rfl⟩ := rxhBeginOp_ok_iff.mp h
    have := rxRecvNextOp_fixed k
    exact ⟨this.fault, this.cfg, this.program, this.pc, this.agenda, this.turn, this.draw⟩
  | rxhEnd r =>
    obtain ⟨_, u, k, rfl⟩ := rxhEndOp_ok_iff.mp h
    have := rxMarkDoneOp_fixed k
    exact ⟨this.fault, this.cfg, this.program, this.pc, this.agenda, this.turn, this.draw⟩
  | txhBegin len =>
    obtain ⟨_, _, ⟨_, u, k, rfl⟩ | ⟨_, _, u, k, rfl⟩ | ⟨_, _, rfl⟩⟩ := txhBeginOp_ok_iff.mp h
    · have := txGetNextBufferOp_fixed k
      exact ⟨this.fault, this.cfg, this.program, this.pc, this.agenda, this.turn, this.draw⟩
    · have := txGetNextBufferOp_fixed k
      exact ⟨this.fault, this.cfg, this.program, this.pc, this.agenda, this.turn, this.draw⟩
    · constructor <;> rfl
  | txhEnd r =>
    obtain ⟨_, u, a, v, k, l, rfl⟩ := txhEndOp_ok_iff.mp h
    obtain ⟨_, _, _, _, rfl⟩ := devKickOp_ok_iff.mp l
    have := txSendCompleteOp_fixed k
    exact ⟨this.fault, this.cfg, this.program, this.pc, this.agenda, this.turn, this.draw⟩
  | handleDrop which =>
    cases which
    · obtain ⟨_, rfl⟩ := handleDropOp_rx_ok_iff.mp h; constructor <;> rfl
    · obtain ⟨_, rfl⟩ := handleDropOp_tx_ok_iff.mp h; constructor <;> rfl
  | drvCaps => cases h; constructor <;> rfl
  | drvClassifyIrq => cases h; constructor <;> rfl
  | bufRd ring off => obtain ⟨_, _, _, _, _, rfl⟩ := bufRdOp_ok_iff.mp h; constructor <;> rfl
  | bufWr ring off byte => obtain ⟨_, _, _, rfl⟩ := bufWrOp_ok_iff.mp h; constructor <;> rfl
  | devSetRxqBase pa => exact devSetRxqBaseOp_fixed (exclusive_ok_iff.mp h).2.2
  | devSetTxqBase pa => exact devSetTxqBaseOp_fixed (exclusive_ok_iff.mp h).2.2
  | devSetTxq1Base pa => exact devSetTxq1BaseOp_fixed (exclusive_ok_iff.mp h).2.2
  | devKick pa => obtain ⟨_, _, _, _, rfl⟩ := devKickOp_ok_iff.mp h; constructor <;> rfl
  | devClearIrq => cases h; constructor <;> rfl
  | simRxSetOwn idx => obtain ⟨_, _, _, _, _, _, _, _, rfl⟩ := simRxSetOwnOp_ok_iff.mp h; constructor <;> rfl
  | simTxSetOwn idx => obtain ⟨_, _, _, _, _, _, _, _, rfl⟩ := simTxSetOwnOp_ok_iff.mp h; constructor <;> rfl
  | dmaRxFrame =>
    obtain ⟨_, rfl⟩ | ⟨_, _, _, _, _, ⟨_, rfl⟩ | ⟨_, k⟩⟩ := dmaRxFrameOp_ok_iff.mp h
    · constructor <;> rfl
    · constructor <;> rfl
    · obtain ⟨_, _, _, _, _, rfl⟩ := dmaStoreFrame_ok_iff.mp k; constructor <;> rfl
  | dmaRxDrop => obtain ⟨rfl, _⟩ := dmaRxDropOp_ok_iff.mp h; constructor <;> rfl
  | dmaTxFrame =>
    obtain ⟨_, rfl⟩ | ⟨_, _, _, _, _, ⟨_, rfl⟩ | ⟨_, k⟩⟩ := dmaTxFrameOp_ok_iff.mp h
    · constructor <;> rfl
    · constructor <;> rfl
    · obtain ⟨_, _, _, _, _, _, _, _, rfl⟩ := dmaSendFrame_ok_iff.mp k; constructor <;> rfl
  | dmaTxStop =>
    obtain ⟨_, rfl⟩ | ⟨_, _, _, _, _, rfl⟩ := dmaTxStopOp_ok_iff.mp h
    · constructor <;> rfl
    · split <;> constructor <;> rfl

end Sys2Proof.Machine
end

