-- ==== Sys2Proof/Laws/Layout.lean ====
section
/-! SUPPORT. Where the five sub-regions of an accepted layout lie: their offsets in closed form, the addresses
that map to them, and which descriptor words a store leaves alone (40_layout.md R152, R161). -/

namespace Sys2Proof.Machine

theorem layoutFor_rxdOff (c : Config) (i : Nat) : (layoutFor c).rxdOff i = 4 * i := by
  simp [layoutFor, subRegionAt, Layout.rxdOff]

theorem layoutFor_rxbOff (c : Config) (i : Nat) : (layoutFor c).rxbOff c.mtu i = 4 * c.n + c.mtu * i := by
  simp [layoutFor, subRegionAt, Layout.rxbOff]

theorem layoutFor_txd0Off (c : Config) (i : Nat) :
    (layoutFor c).txd0Off i = 4 * c.n + c.mtu * c.n + 8 * i := by
  simp [layoutFor, subRegionAt, Layout.txd0Off]

theorem layoutFor_txd1Off (c : Config) (i : Nat) :
    (layoutFor c).txd1Off i = 4 * c.n + c.mtu * c.n + 8 * i + 4 := by
  simp [layoutFor, subRegionAt, Layout.txd1Off]

theorem layoutFor_txbOff (c : Config) (i : Nat) :
    (layoutFor c).txbOff c.mtu i = 12 * c.n + c.mtu * c.n + c.mtu * i := by
  simp only [layoutFor, subRegionAt, Layout.txbOff, Config.RXD, Config.TXD]; omega

theorem layoutFor_dmy0Off (c : Config) : (layoutFor c).dmy0Off = 12 * c.n + 2 * (c.mtu * c.n) := by
  simp only [layoutFor, subRegionAt, Layout.dmy0Off, Config.RXD, Config.TXD]; omega

theorem layoutFor_dmy1Off (c : Config) : (layoutFor c).dmy1Off = 12 * c.n + 2 * (c.mtu * c.n) + 4 := by
  simp only [layoutFor, subRegionAt, Layout.dmy1Off, Config.RXD, Config.TXD]; omega

theorem layoutFor_stop (c : Config) : (layoutFor c).stop = 12 * c.n + 2 * (c.mtu * c.n) + 8 := by
  simp only [layoutFor, Config.RXD, Config.TXD]; omega

/-- A slot's buffer ends inside its pool. -/
theorem slot_end_le {m i n : Nat} (h : i < n) : m * i + m ≤ m * n := by
  rw [← Nat.mul_succ]; exact Nat.mul_le_mul_left m h

/-- What the physical address of an RX buffer is, as a word and as an offset. -/
theorem rxbPa_of_accepted {c : Config} (ha : layoutAccepts c) {i : Nat} (hi : i < c.n) :
    (paWord ((layoutFor c).rxbPa c.mtu i)).toNat = (layoutFor c).rxbPa c.mtu i ∧
      (layoutFor c).rxbPa c.mtu i = c.paBase + (layoutFor c).rxbOff c.mtu i := by
  have hs := ha.2.2.2.1
  have e : (layoutFor c).rxbPa c.mtu i = c.paBase + (layoutFor c).rxbOff c.mtu i := by
    simp only [Layout.rxbPa, Layout.rxbOff, layoutFor, subRegionAt, Nat.mul_comm i]; omega
  refine ⟨?_, e⟩
  have := slot_end_le (m := c.mtu) hi
  rw [layoutFor_stop, Config.PA_W] at hs
  rw [paWord, BitVec.toNat_ofNat, Nat.mod_eq_of_lt]
  rw [e, layoutFor_rxbOff]; omega

/-- What the physical address of a TX buffer is, as a word and as an offset. -/
theorem txbPa_of_accepted {c : Config} (ha : layoutAccepts c) {i : Nat} (hi : i < c.n) :
    (paWord ((layoutFor c).txbPa c.mtu i)).toNat = (layoutFor c).txbPa c.mtu i ∧
      (layoutFor c).txbPa c.mtu i = c.paBase + (layoutFor c).txbOff c.mtu i := by
  have hs := ha.2.2.2.1
  have e : (layoutFor c).txbPa c.mtu i = c.paBase + (layoutFor c).txbOff c.mtu i := by
    simp only [Layout.txbPa, Layout.txbOff, layoutFor, subRegionAt, Nat.mul_comm i]; omega
  refine ⟨?_, e⟩
  have := slot_end_le (m := c.mtu) hi
  rw [layoutFor_stop, Config.PA_W] at hs
  rw [paWord, BitVec.toNat_ofNat, Nat.mod_eq_of_lt]
  rw [e, layoutFor_txbOff]; omega

/-- Every descriptor word lies inside the Region. -/
theorem rxd_inside {c : Config} (ha : layoutAccepts c) {i : Nat} (hi : i < c.n) :
    (layoutFor c).rxdOff i + 4 ≤ c.size := by
  have := ha.2.1; rw [layoutFor_stop] at this; rw [layoutFor_rxdOff]; omega

theorem txd0_inside {c : Config} (ha : layoutAccepts c) {i : Nat} (hi : i < c.n) :
    (layoutFor c).txd0Off i + 4 ≤ c.size := by
  have := ha.2.1; rw [layoutFor_stop] at this; rw [layoutFor_txd0Off]; omega

theorem txd1_inside {c : Config} (ha : layoutAccepts c) {i : Nat} (hi : i < c.n) :
    (layoutFor c).txd1Off i + 4 ≤ c.size := by
  have := ha.2.1; rw [layoutFor_stop] at this; rw [layoutFor_txd1Off]; omega

/-- The descriptor words of `m'` are those of `m`, but for the RX words in `A` and the TX status words in `B`. -/
structure WordsKept (c : Config) (m m' : Memory) (A B : Nat → Prop) : Prop where
  rx : ∀ i < c.n, ¬ A i → m'.readWord ((layoutFor c).rxdOff i) = m.readWord ((layoutFor c).rxdOff i)
  txAddr : ∀ i < c.n, m'.readWord ((layoutFor c).txd0Off i) = m.readWord ((layoutFor c).txd0Off i)
  tx : ∀ i < c.n, ¬ B i → m'.readWord ((layoutFor c).txd1Off i) = m.readWord ((layoutFor c).txd1Off i)
  dmy0 : m'.readWord (layoutFor c).dmy0Off = m.readWord (layoutFor c).dmy0Off
  dmy1 : m'.readWord (layoutFor c).dmy1Off = m.readWord (layoutFor c).dmy1Off

theorem WordsKept.refl (c : Config) (m : Memory) (A B : Nat → Prop) : WordsKept c m m A B :=
  ⟨fun _ _ _ => rfl, fun _ _ => rfl, fun _ _ _ => rfl, rfl, rfl⟩

theorem WordsKept.trans {c : Config} {m₁ m₂ m₃ : Memory} {A B : Nat → Prop} (h : WordsKept c m₁ m₂ A B)
    (k : WordsKept c m₂ m₃ A B) : WordsKept c m₁ m₃ A B :=
  ⟨fun i hi ha => (k.rx i hi ha).trans (h.rx i hi ha), fun i hi => (k.txAddr i hi).trans (h.txAddr i hi),
    fun i hi hb => (k.tx i hi hb).trans (h.tx i hi hb), k.dmy0.trans h.dmy0, k.dmy1.trans h.dmy1⟩

theorem WordsKept.mono {c : Config} {m m' : Memory} {A B A' B' : Nat → Prop} (h : WordsKept c m m' A B)
    (hA : ∀ i, A i → A' i) (hB : ∀ i, B i → B' i) : WordsKept c m m' A' B' :=
  ⟨fun i hi ha => h.rx i hi fun x => ha (hA i x), h.txAddr, fun i hi hb => h.tx i hi fun x => hb (hB i x), h.dmy0,
    h.dmy1⟩

/-- A store that misses the words it is to keep. -/
theorem wordsKept_store {c : Config} {m : Memory} {off : Nat} {bs : List Byte} {A B : Nat → Prop}
    (hrx : ∀ i < c.n, ¬ A i → 4 * i + 4 ≤ off ∨ off + bs.length ≤ 4 * i)
    (haddr : ∀ i < c.n, 4 * c.n + c.mtu * c.n + 8 * i + 4 ≤ off ∨ off + bs.length ≤ 4 * c.n + c.mtu * c.n + 8 * i)
    (htx : ∀ i < c.n, ¬ B i →
      4 * c.n + c.mtu * c.n + 8 * i + 8 ≤ off ∨ off + bs.length ≤ 4 * c.n + c.mtu * c.n + 8 * i + 4)
    (hdmy : off + bs.length ≤ 12 * c.n + 2 * (c.mtu * c.n)) : WordsKept c m (m.store off bs) A B where
  rx i hi h := by rw [layoutFor_rxdOff]; exact Memory.readWord_store_outside (hrx i hi h)
  txAddr i hi := by rw [layoutFor_txd0Off]; exact Memory.readWord_store_outside (haddr i hi)
  tx i hi h := by
    rw [layoutFor_txd1Off]; exact Memory.readWord_store_outside (by have := htx i hi h; omega)
  dmy0 := by rw [layoutFor_dmy0Off]; exact Memory.readWord_store_outside (by omega)
  dmy1 := by rw [layoutFor_dmy1Off]; exact Memory.readWord_store_outside (by omega)

/-- A store inside an RX buffer changes no descriptor word. -/
theorem wordsKept_rxb {c : Config} {m : Memory} {i off : Nat} {bs : List Byte} (hi : i < c.n)
    (h : off + bs.length ≤ c.mtu) :
    WordsKept c m (m.store ((layoutFor c).rxbOff c.mtu i + off) bs) (fun _ => False) fun _ => False := by
  rw [layoutFor_rxbOff]
  have := slot_end_le (m := c.mtu) hi
  apply wordsKept_store <;> intros <;> omega

/-- A store inside a TX buffer changes no descriptor word. -/
theorem wordsKept_txb {c : Config} {m : Memory} {i off : Nat} {bs : List Byte} (hi : i < c.n)
    (h : off + bs.length ≤ c.mtu) :
    WordsKept c m (m.store ((layoutFor c).txbOff c.mtu i + off) bs) (fun _ => False) fun _ => False := by
  rw [layoutFor_txbOff]
  have := slot_end_le (m := c.mtu) hi
  apply wordsKept_store <;> intros <;> omega

/-- Writing RX descriptor `k` changes no other descriptor word. -/
theorem wordsKept_rxd {c : Config} {m : Memory} {k : Nat} {w : Word} (hk : k < c.n) :
    WordsKept c m (m.writeWord ((layoutFor c).rxdOff k) w) (· = k) fun _ => False := by
  rw [layoutFor_rxdOff]
  apply wordsKept_store <;> intros <;> simp only [wordBytes_length] <;> omega

/-- Writing the status word of TX descriptor `k` changes no other descriptor word. -/
theorem wordsKept_txd1 {c : Config} {m : Memory} {k : Nat} {w : Word} (hk : k < c.n) :
    WordsKept c m (m.writeWord ((layoutFor c).txd1Off k) w) (fun _ => False) (· = k) := by
  rw [layoutFor_txd1Off]
  apply wordsKept_store <;> intros <;> simp only [wordBytes_length] <;> omega

/-- Where the setup order is respected, the layout record is the one its configuration gives. -/
theorem SetupInv.layoutFor_eq {s : State} (h : SetupInv s) {L : Layout} (hL : s.layout = some L) :
    L = layoutFor s.cfg ∧ layoutAccepts s.cfg := by
  cases hb : s.layoutSet with
  | false => rw [h.layoutUnset hb] at hL; exact absurd hL nofun
  | true =>
    obtain ⟨h1, h2⟩ := h.layoutIs hb
    rw [h1] at hL
    exact ⟨(Option.some.inj hL).symm, h2⟩

theorem rxOwned_of {s : State} {L : Layout} {i : Nat} {w : Word} (h : s.mem.readWord (L.rxdOff i) = some w) :
    rxOwned s L i = rxOwn w := by unfold rxOwned State.wordHas; rw [h]

theorem txBusy_of {s : State} {L : Layout} {i : Nat} {w : Word} (h : s.mem.readWord (L.txd1Off i) = some w) :
    txBusy s L i = !txUsed w := by unfold txBusy State.wordHas; rw [h]

/-- The slots counted as software's on the RX ring are those in the two `SW_OWNED` states of R55. -/
theorem rxOwned_iff_rxSlot {s : State} {L : Layout} {i : Nat} :
    rxOwned s L i = true ↔ rxSlot s L i = some .swOwned ∨ rxSlot s L i = some .borrowed := by
  unfold rxOwned rxSlot State.wordHas
  cases s.mem.readWord (L.rxdOff i) with
  | none => simp
  | some w => cases h : rxOwn w <;> by_cases hb : s.rxBorrow = some i <;> simp [h, hb]

/-- The slots counted as in flight on the TX ring are the claimed and the committed ones of R56. -/
theorem txBusy_iff_txSlot {s : State} {L : Layout} {i : Nat} :
    txBusy s L i = true ↔ txSlot s L i = some .claimed ∨ txSlot s L i = some .committed := by
  unfold txBusy txSlot State.wordHas
  cases s.mem.readWord (L.txd1Off i) with
  | none => simp
  | some w => cases h : txUsed w <;> by_cases hb : s.txClaim.map Claim.slot = some i <;> simp [h, hb]

/-- A check of a word that holds has a word it holds of. -/
theorem State.wordHas_iff {s : State} {off : Nat} {p : Word → Bool} :
    s.wordHas off p = true ↔ ∃ w, s.mem.readWord off = some w ∧ p w = true := by
  unfold State.wordHas
  cases s.mem.readWord off <;> simp

/-- The DMA agent reads a written word as software does. -/
theorem State.dmaWord_eq {s : State} {off : Nat} {w v : Word} (h : s.dmaWord off = .ok w)
    (hv : s.mem.readWord off = some v) : w = v := by
  rw [State.dmaWord_of_written (State.dmaWord_ok_size h) hv, Except.ok.injEq] at h
  exact h.symm

end Sys2Proof.Machine
end

