-- ==== Sys2Proof/Laws/PerInstr.lean ====
section
/-! SUPPORT. Statements made per instruction. -/

namespace Sys2Proof.Laws.WordFields

/-- An instruction's word holds its operation code, zeros in `Z`, and its argument (30_encoding.md R123). -/
def Statement (i : Instr) : Prop :=
  opField (encode i) = i.opcode ∧ zField (encode i) = 0 ∧ argField (encode i) = i.arg

theorem of_cmdWord (i : Instr) : Statement i :=
  ⟨opField_cmdWord _ _, zField_cmdWord _ _, argField_cmdWord _ _⟩

theorem layout : Statement (.layout) := of_cmdWord _
theorem rxSetup : Statement (.rxSetup) := of_cmdWord _
theorem rxAvail : Statement (.rxAvail) := of_cmdWord _
theorem rxRecvNext : Statement (.rxRecvNext) := of_cmdWord _
theorem rxMarkDone : Statement (.rxMarkDone) := of_cmdWord _
theorem txSetup : Statement (.txSetup) := of_cmdWord _
theorem txAvail : Statement (.txAvail) := of_cmdWord _
theorem txGetNextBuffer (len : Word) : Statement (.txGetNextBuffer len) := of_cmdWord _
theorem txSendComplete : Statement (.txSendComplete) := of_cmdWord _
theorem dummySetup : Statement (.dummySetup) := of_cmdWord _
theorem drvInit : Statement (.drvInit) := of_cmdWord _
theorem drvReceive : Statement (.drvReceive) := of_cmdWord _
theorem drvTransmit : Statement (.drvTransmit) := of_cmdWord _
theorem rxhBegin : Statement (.rxhBegin) := of_cmdWord _
theorem rxhEnd (r : Word) : Statement (.rxhEnd r) := of_cmdWord _
theorem txhBegin (len : Word) : Statement (.txhBegin len) := of_cmdWord _
theorem txhEnd (r : Word) : Statement (.txhEnd r) := of_cmdWord _
theorem handleDrop (which : Which) : Statement (.handleDrop which) := of_cmdWord _
theorem drvCaps : Statement (.drvCaps) := of_cmdWord _
theorem drvClassifyIrq : Statement (.drvClassifyIrq) := of_cmdWord _
theorem bufRd (ring : Ring) (off : BitVec 16) : Statement (.bufRd ring off) := of_cmdWord _
theorem bufWr (ring : Ring) (off : BitVec 16) (byte : Byte) : Statement (.bufWr ring off byte) := of_cmdWord _
theorem devSetRxqBase (pa : Word) : Statement (.devSetRxqBase pa) := of_cmdWord _
theorem devSetTxqBase (pa : Word) : Statement (.devSetTxqBase pa) := of_cmdWord _
theorem devSetTxq1Base (pa : Word) : Statement (.devSetTxq1Base pa) := of_cmdWord _
theorem devKick (pa : Word) : Statement (.devKick pa) := of_cmdWord _
theorem devClearIrq : Statement (.devClearIrq) := of_cmdWord _
theorem simRxSetOwn (idx : Word) : Statement (.simRxSetOwn idx) := of_cmdWord _
theorem simTxSetOwn (idx : Word) : Statement (.simTxSetOwn idx) := of_cmdWord _
theorem dmaRxFrame : Statement (.dmaRxFrame) := of_cmdWord _
theorem dmaRxDrop : Statement (.dmaRxDrop) := of_cmdWord _
theorem dmaTxFrame : Statement (.dmaTxFrame) := of_cmdWord _
theorem dmaTxStop : Statement (.dmaTxStop) := of_cmdWord _

end Sys2Proof.Laws.WordFields
end

