-- ==== Sys2Proof/Laws/Step.lean ====
section
/-! SUPPORT. What a step can do, said once. -/

namespace Sys2Proof.Machine

@[simp] theorem Instr.done_fault (i : Instr) (s : State) : (Instr.done i s).fault = s.fault := by
  unfold Instr.done; split <;> rfl

/-- `exec` answers the rule's effect, or the state with the raised fault and nothing else changed. -/
theorem exec_cases {i : Instr} {s t : State} (h : exec i s = .next t) :
    (t.fault = none ∧ ∃ u, bodyOf i s = .ok u ∧ t = Instr.done i u) ∨
      ∃ r, bodyOf i s = .error (.raise r) ∧ t = { s with fault := some r } := by
  obtain ⟨hf, ⟨u, hu, rfl⟩ | ⟨r, hr, rfl⟩⟩ := exec_next_iff.mp h
  · exact .inl ⟨by rw [Instr.done_fault, (bodyOf_fixed hu).fault, hf], u, hu, rfl⟩
  · exact .inr ⟨r, hr, rfl⟩

theorem decodeCommand?_isCommand {w : CmdWord} {i : Instr} (h : decodeCommand? w = some i) :
    i.isCommand = true := by
  unfold decodeCommand? at h
  split at h
  · split at h
    · exact Option.some.inj h ▸ ‹_›
    · exact absurd h nofun
  · exact absurd h nofun

/-- A step is a software turn past the program's end, a command, an illegal word's fault, or a DMA event. -/
theorem step_cases {s t : State} (h : step s = .next t) :
    s.fault = none ∧
      ((s.nextTurn = .command ∧ s.program.length ≤ s.pc ∧ t = s.beginTurn .free) ∨
        (s.nextTurn = .command ∧ s.pc < s.program.length ∧
          ∃ i : Instr, i.isCommand = true ∧ exec i (s.beginTurn .free) = .next t) ∨
        (s.nextTurn = .command ∧ s.pc < s.program.length ∧
          ∃ r, t = { s.beginTurn .free with fault := some r }) ∨
        ∃ e d, s.nextTurn = .dma e d ∧ exec e.toInstr (s.beginTurn d) = .next t) := by
  unfold step at h
  cases hf : s.fault with
  | some r => rw [hf] at h; exact absurd h nofun
  | none =>
    simp only [hf, takeTurn] at h
    refine ⟨rfl, ?_⟩
    cases ht : s.nextTurn with
    | dma e d => simp only [ht] at h; exact .inr (.inr (.inr ⟨e, d, rfl, h⟩))
    | command =>
      simp only [ht, softwareTurn, State.fetch] at h
      rw [show (s.beginTurn .free).program[(s.beginTurn .free).pc]? = s.program[s.pc]? from rfl] at h
      cases hw : s.program[s.pc]? with
      | none =>
        simp only [hw, Host.Outcome.next.injEq] at h
        exact .inl ⟨rfl, List.getElem?_eq_none_iff.mp hw, h.symm⟩
      | some w =>
        have hl := (List.getElem?_eq_some_iff.mp hw).1
        simp only [hw] at h
        cases hd : decodeCommand? w with
        | none =>
          simp only [hd] at h
          rcases (command_next_iff.mp h).2 with ⟨u, hu, _⟩ | ⟨r, _, e⟩
          · exact absurd hu nofun
          · exact .inr (.inr (.inl ⟨rfl, hl, r, e⟩))
        | some i =>
          simp only [hd] at h
          exact .inr (.inl ⟨rfl, hl, i, decodeCommand?_isCommand hd, h⟩)

/-- What every rule keeps, and `pc`, the fault record and the environment's choices do not matter to, every step
keeps. -/
theorem step_keeps {P : State → Prop}
    (hP : ∀ (s : State) (pc : Nat) (f : Option FaultRecord) (a : List Turn) (n : Nat) (d : Draw), P s →
      P { s with pc := pc, fault := f, agenda := a, turn := n, draw := d })
    (hb : ∀ (i : Instr) (s u : State), bodyOf i s = .ok u → P s → P u) {s t : State} (h : step s = .next t)
    (hs : P s) : P t := by
  have ex : ∀ (i : Instr) (s t : State), exec i s = .next t → P s → P t := by
    intro i s t h hs
    rcases exec_cases h with ⟨_, u, hu, rfl⟩ | ⟨r, _, rfl⟩
    · have hu := hb i s u hu hs
      unfold Instr.done
      split
      · exact hP u (u.pc + 1) u.fault u.agenda u.turn u.draw hu
      · exact hu
    · exact hP s _ _ _ _ _ hs
  have bt : ∀ d, P (s.beginTurn d) := fun d => hP s s.pc s.fault _ _ _ hs
  obtain ⟨_, ⟨_, _, rfl⟩ | ⟨_, _, i, _, h⟩ | ⟨_, _, r, rfl⟩ | ⟨e, d, _, h⟩⟩ := step_cases h
  · exact bt _
  · exact ex _ _ _ h (bt _)
  · exact hP _ _ _ _ _ _ (bt _)
  · exact ex _ _ _ h (bt _)

end Sys2Proof.Machine
end

