-- ==== Sys2Proof/Tests/Slice0.lean ====
section
/-! SUPPORT. Tests: small states built from the spec's words, one step each, and for every statement a state that
meets its hypotheses. The expected values are those of 95_test_vectors.md (the vector's name stands beside each)
or are worked out from the rule named. -/

namespace Sys2Proof.Tests

open Sys2Proof Sys2Proof.Machine

/-- Configuration K4 of 95_test_vectors.md. -/
def K4 : Config where
  n := 4
  mtu := 64
  oversizePolicy := .truncate
  harness := true
  vaBase := 0x40000000
  paBase := 0x10000000
  size := 568

/-- Configuration K4R. -/
def K4R : Config := { K4 with oversizePolicy := .reject }

/-- Configuration K4H0. -/
def K4H0 : Config := { K4 with harness := false }

/-- `S0` under K4. -/
def S0 : State := State.resetWith K4

/-- The Region of `SI`, from the words of 95_test_vectors.md section 0. -/
def regionSI : Memory :=
  let words : List (Nat × Word) :=
    [(0x000, 0x10000010), (0x004, 0x10000050), (0x008, 0x10000090), (0x00C, 0x100000D2),
     (0x110, 0x10000130), (0x114, 0x80000000), (0x118, 0x10000170), (0x11C, 0x80000000),
     (0x120, 0x100001B0), (0x124, 0x80000000), (0x128, 0x100001F0), (0x12C, 0xC0000000),
     (0x230, 0x00000000), (0x234, 0xC0000000)]
  words.flatMap fun e => Memory.cells e.1 (wordBytes e.2)

/-- The layout record of K4 (95_test_vectors.md section 0). -/
def layoutK4 : Layout where
  rxd := { off := 0x000, va := 0x40000000, pa := 0x10000000 }
  rxb := { off := 0x010, va := 0x40000010, pa := 0x10000010 }
  txd := { off := 0x110, va := 0x40000110, pa := 0x10000110 }
  txb := { off := 0x130, va := 0x40000130, pa := 0x10000130 }
  dmy := { off := 0x230, va := 0x40000230, pa := 0x10000230 }
  stop := 0x238

/-- `S0` after `LAYOUT`. -/
def SL : State := { S0 with layout := some layoutK4, layoutSet := true, st := some .ok, pc := 1 }

/-- `SI` under K4: the state right after `DRV_INIT`. -/
def SI : State :=
  { SL with
    mem := regionSI, rxState := .ready, txState := .ready, dmyState := .ready, rxCursor := some 0
    txCursor := some 0, rxqBase := some 0x10000000, txqBase := some 0x10000110, txq1Base := some 0x10000230
    rxqSet := true, txqSet := true, txq1Set := true, hwRxIdx := some 0, hwTxIdx := some 0, rxEnabled := true }

/-- `SI` with a frame in RX slot 0. -/
def SRx : State := { SI with mem := regionSI.writeWord 0 0x10000011, hwRxIdx := some 1, rxComplete := true }

/-- `SI` with 32 bytes claimed in TX slot 0 by `TX_GET_NEXT_BUFFER 32`. -/
def SCl : State := { SI with mem := regionSI.writeWord 0x114 0x00008020, txClaim := some { slot := 0, len := 32 } }

/-- `SI` with two bytes, 0x01 and 0x02, committed in TX slot 0 and the engine running. -/
def STx : State :=
  { SI with
    mem := (regionSI.store 0x130 [0x01, 0x02]).writeWord 0x114 0x00008002, txCursor := some 1, txRunning := true }

/-- Both handles of `DRV_RECEIVE`, in `SRx`. -/
def SLive : State := { SRx with hrx := .live, htx := .live }

/-- The receive handle active on slot 0. -/
def SRxAct : State := { SLive with hrx := .active, rxBorrow := some 0 }

/-- The transmit handle active on the 32 bytes of slot 0. -/
def STxAct : State := { SCl with htx := .active }

/-- The next state satisfies `p`. -/
def shows (r : Result) (p : State → Bool) : Bool :=
  match r with
  | .next t => p t
  | .fault _ => false
  | .refused _ => false

/-- The next state is `s` with the fault `r` raised. -/
def raises (i : Instr) (s : State) (r : FaultRecord) : Bool :=
  shows (exec i s) fun t => t == { s with fault := some r }

/-! WellFormed: each check refuses an ill-formed term. -/

theorem test_wf_rx_harness_off : (Instr.simRxSetOwn 0).wellFormed K4H0 = false := by decide
theorem test_wf_rx_slot_past_end : (Instr.simRxSetOwn 4).wellFormed K4 = false := by decide
theorem test_wf_tx_harness_off : (Instr.simTxSetOwn 0).wellFormed K4H0 = false := by decide
theorem test_wf_tx_slot_past_end : (Instr.simTxSetOwn 4).wellFormed K4 = false := by decide
theorem test_wf_last_slot : (Instr.simRxSetOwn 3).wellFormed K4 = true ∧ (Instr.simTxSetOwn 3).wellFormed K4 = true := by
  decide

/-! Decoding: every constructor's word, written out from 30_encoding.md R123, R124, R127, R128. -/

/-- `w` decodes to `i`. -/
def reads (w : CmdWord) (i : Instr) : Bool :=
  match decode w with
  | .ok j => j == i
  | .error _ => false

theorem test_decode_rx_ring :
    reads 0x0000000000000001 .layout = true ∧ reads 0x0000000000000002 .rxSetup = true ∧
      reads 0x0000000000000003 .rxAvail = true ∧ reads 0x0000000000000004 .rxRecvNext = true ∧
      reads 0x0000000000000005 .rxMarkDone = true := by decide

theorem test_decode_tx_ring :
    reads 0x0000000000000006 .txSetup = true ∧ reads 0x0000000000000007 .txAvail = true ∧
      reads 0x0000002000000008 (.txGetNextBuffer 32) = true ∧ reads 0x0000000000000009 .txSendComplete = true ∧
      reads 0x000000000000000A .dummySetup = true := by decide

/-- EN14, EN15, EN17, EN18 and the words of programs P1 and P2. -/
theorem test_decode_driver :
    reads 0x000000000000000B .drvInit = true ∧ reads 0x000000000000000C .drvReceive = true ∧
      reads 0x000000000000000D .drvTransmit = true ∧ reads 0x000000000000000E .rxhBegin = true ∧
      reads 0x000000070000000F (.rxhEnd 7) = true ∧ reads 0x0000006400000010 (.txhBegin 100) = true ∧
      reads 0x0000000000000011 (.txhEnd 0) = true ∧ reads 0x0000000100000012 (.handleDrop .tx) = true ∧
      reads 0x0000000000000012 (.handleDrop .rx) = true ∧ reads 0x0000000000000013 .drvCaps = true ∧
      reads 0x0000000000000014 .drvClassifyIrq = true := by decide

/-- EN11, EN12, EN13. -/
theorem test_decode_buffer :
    reads 0x0000000000000015 (.bufRd .rx 0) = true ∧ reads 0x8000000700000015 (.bufRd .tx 7) = true ∧
      reads 0x80AB000500000016 (.bufWr .tx 5 0xAB) = true ∧ reads 0x0099000100000016 (.bufWr .rx 1 0x99) = true := by
  decide

/-- EN16, EN30 and the words of vector DR28. -/
theorem test_decode_device :
    reads 0x1000000000000020 (.devSetRxqBase 0x10000000) = true ∧
      reads 0x1000011000000021 (.devSetTxqBase 0x10000110) = true ∧
      reads 0x1000023000000022 (.devSetTxq1Base 0x10000230) = true ∧
      reads 0x1000011000000023 (.devKick 0x10000110) = true ∧ reads 0xFFFFFFFF00000023 (.devKick 0xFFFFFFFF) = true ∧
      reads 0x0000000000000024 .devClearIrq = true := by decide

/-- EN19. -/
theorem test_decode_harness :
    reads 0x00000003000000F0 (.simRxSetOwn 3) = true ∧ reads 0x00000002000000F1 (.simTxSetOwn 2) = true := by decide

theorem test_decode_dma :
    reads 0x0000000000000080 .dmaRxFrame = true ∧ reads 0x0000000000000081 .dmaRxDrop = true ∧
      reads 0x0000000000000082 .dmaTxFrame = true ∧ reads 0x0000000000000083 .dmaTxStop = true := by decide

/-- EN20 to EN27, EN29: the illegal words. -/
theorem test_decode_illegal :
    decodeCommand? 0x0000000100000003 = none ∧ decodeCommand? 0x0000000000000000 = none ∧
      decodeCommand? 0x0000000000000017 = none ∧ decodeCommand? 0x0000000000000103 = none ∧
      decodeCommand? 0x0001000000000015 = none ∧ decodeCommand? 0x0100000000000016 = none ∧
      decodeCommand? 0x0000000200000012 = none ∧ decodeCommand? 0x0000000000000080 = none ∧
      decodeCommand? 0x7FFFFFFF00000016 = none := by decide

/-- No word belongs to two rows of the opcode table. -/
theorem test_rows_disjoint :
    opcodeTable.Pairwise fun r q => r.pattern &&& (r.mask &&& q.mask) ≠ q.pattern &&& (r.mask &&& q.mask) := by
  decide

/-- EN1 to EN4: the fields of descriptor words. -/
theorem test_descriptor_fields :
    rxAddr 0x100000D3 = 0x100000D0 ∧ rxWrap 0x100000D3 = true ∧ rxOwn 0x100000D3 = true ∧ rxOwn 0x10000010 = false ∧
      txUsed 0x92348002 = true ∧ txWrap 0x92348002 = false ∧ txStat 0x92348002 = 0x1234 ∧ txLast 0x92348002 = true ∧
      txRsvd 0x92348002 = false ∧ txLen 0x92348002 = 2 ∧ txUsed 0x40008020 = false ∧ txWrap 0x40008020 = true ∧
      txLen 0x40008020 = 32 ∧ wordBytes 0x100000D3 = [0xD3, 0x00, 0x00, 0x10] := by decide

/-! One step each: the commands. -/

/-- LY3. -/
theorem test_layout : shows (exec .layout S0) (fun t => t == SL) = true := by decide
/-- LY12: the transmit table is misaligned. -/
theorem test_layout_misaligned :
    raises .layout (State.resetWith { K4 with paBase := 0x10000004 }) (.cfgMisaligned .txd) = true := by decide

/-- E2: the last RX word has the end-of-ring bit. -/
theorem test_rx_setup :
    shows (exec .rxSetup SL) (fun t =>
      t.mem.readWord 0x008 == some 0x10000090 && t.mem.readWord 0x00C == some 0x100000D2 && t.rxCursor == some 0) =
      true := by decide
/-- RX7. -/
theorem test_rx_setup_early : raises .rxSetup S0 (.notSetup .rxSetup) = true := by decide

/-- E3. -/
theorem test_rx_avail : shows (exec .rxAvail SRx) (fun t => t == { SRx with res := some 1, pc := 2 }) = true := by decide
/-- RX1. -/
theorem test_rx_avail_none : shows (exec .rxAvail SI) (fun t => t.res == some 0) = true := by decide

/-- RX4. -/
theorem test_rx_recv_next :
    shows (exec .rxRecvNext SRx) (fun t => t.res == some 0x40000010 && t.rxBorrow == some 0 && t.rxCursor == some 0) =
      true := by decide
/-- RX2. -/
theorem test_rx_recv_next_empty : raises .rxRecvNext SI (.rxRecvNotReady 0) = true := by decide

/-- RX14: the end-of-ring bit is kept and the cursor wraps. -/
theorem test_rx_mark_done_wraps :
    shows (exec .rxMarkDone { SI with rxCursor := some 3, mem := regionSI.writeWord 0x00C 0x100000D3 }) (fun t =>
      t.mem.readWord 0x00C == some 0x100000D2 && t.rxCursor == some 0) = true := by decide
/-- RX3. -/
theorem test_rx_mark_done_empty : raises .rxMarkDone SI (.rxDoneNotReady 0) = true := by decide

/-- E2. -/
theorem test_tx_setup :
    shows (exec .txSetup SL) (fun t =>
      t.mem.readWord 0x120 == some 0x100001B0 && t.mem.readWord 0x124 == some 0x80000000 &&
        t.mem.readWord 0x12C == some 0xC0000000) = true := by decide

/-- TX1. -/
theorem test_tx_avail : shows (exec .txAvail SI) (fun t => t.res == some 1) = true := by decide
/-- TX10. -/
theorem test_tx_avail_claimed : shows (exec .txAvail SCl) (fun t => t.res == some 0) = true := by decide

/-- TX8's last command: the end-of-ring bit is kept. -/
theorem test_tx_get_next_buffer :
    shows (exec (.txGetNextBuffer 32) { SI with txCursor := some 3 }) (fun t =>
      t.mem.readWord 0x12C == some 0x40008020 && t.res == some 0x400001F0 &&
        t.txClaim == some { slot := 3, len := 32 }) = true := by decide
/-- TX4. -/
theorem test_tx_get_next_buffer_oversize : raises (.txGetNextBuffer 65) SI (.txLenOversize 65) = true := by decide

/-- E8, step 7: the result is the descriptor's physical address. -/
theorem test_tx_send_complete :
    shows (exec .txSendComplete SCl) (fun t => t.res == some 0x10000110 && t.txCursor == some 1 && t.txClaim == none) =
      true := by decide
/-- TX6. -/
theorem test_tx_send_complete_unclaimed : raises .txSendComplete SI .txNoClaim = true := by decide

/-- DM1. -/
theorem test_dummy_setup :
    shows (exec .dummySetup SL) (fun t =>
      t.mem.readWord 0x230 == some 0 && t.mem.readWord 0x234 == some 0xC0000000 && t.dmyState == .ready) = true := by
  decide

/-- 10_state.md R64: `DRV_INIT` gives `SI`. -/
theorem test_drv_init : shows (exec .drvInit S0) (fun t => t == SI) = true := by decide
/-- P5. -/
theorem test_drv_init_small : raises .drvInit (State.resetWith { K4 with size := 567 }) (.cfgRegionTooSmall 568 567) = true := by
  decide

/-- P1, step 5. -/
theorem test_drv_receive : shows (exec .drvReceive SRx) (fun t => t == { SLive with pc := 2 }) = true := by decide
/-- DR2. -/
theorem test_drv_receive_not_ready :
    shows (exec .drvReceive SI) (fun t => t == { SI with st := some .notReady, pc := 2 }) = true := by decide

/-- P2, step 2. -/
theorem test_drv_transmit : shows (exec .drvTransmit SI) (fun t => t == { SI with htx := .live, pc := 2 }) = true := by
  decide
/-- DR4. -/
theorem test_drv_transmit_not_ready :
    shows (exec .drvTransmit SCl) (fun t => t.st == some .notReady && t.htx == .none) = true := by decide

/-- P1, step 6. -/
theorem test_rxh_begin :
    shows (exec .rxhBegin SLive) (fun t => t == { SRxAct with res := some 0x40000010, pc := 2 }) = true := by decide
/-- DR11. -/
theorem test_rxh_begin_no_handle : raises .rxhBegin SRx (.handleViolation .rxhBegin .none .none) = true := by decide

/-- P1, step 9. -/
theorem test_rxh_end :
    shows (exec (.rxhEnd 7) SRxAct) (fun t =>
      t.mem.readWord 0 == some 0x10000010 && t.rxCursor == some 1 && t.rxBorrow == none && t.hrx == .none &&
        t.res == some 7) = true := by decide
/-- DR10's last command. -/
theorem test_rxh_end_twice : raises (.rxhEnd 1) SRx (.handleViolation (.rxhEnd 1) .none .none) = true := by decide

/-- E6d. -/
theorem test_txh_begin_truncate :
    shows (exec (.txhBegin 100) { SI with htx := .live }) (fun t =>
      t.st == some .ok && t.mem.readWord 0x114 == some 0x00008040 && t.txClaim == some { slot := 0, len := 64 } &&
        t.oversizeMarker && t.res == some 0x40000130) = true := by decide
/-- E6e. -/
theorem test_txh_begin_reject :
    shows (exec (.txhBegin 100) { SI with htx := .live, cfg := K4R }) (fun t =>
      t == { SI with cfg := K4R, st := some .rejected, pc := 2 }) = true := by decide

/-- P2, step 8. -/
theorem test_txh_end :
    shows (exec (.txhEnd 0) STxAct) (fun t =>
      t.txCursor == some 1 && t.txClaim == none && t.txRunning && t.htx == .none && t.res == some 0) = true := by decide

/-- P1, step 10. -/
theorem test_handle_drop : shows (exec (.handleDrop .tx) SLive) (fun t => t.htx == .none && t.hrx == .live) = true := by
  decide
/-- DR8. -/
theorem test_handle_drop_active :
    raises (.handleDrop .tx) STxAct (.handleViolation (.handleDrop .tx) .none .active) = true := by decide

/-- DR22. -/
theorem test_drv_caps :
    shows (exec .drvCaps S0) (fun t => t.res == some 0x01010040) = true ∧
      shows (exec .drvCaps State.reset) (fun t => t.res == some 0x01010640) = true := by decide

/-- E11. -/
theorem test_drv_classify_irq :
    shows (exec .drvClassifyIrq { SI with rxComplete := true, txComplete := true }) (fun t => t.res == some 1) = true ∧
      shows (exec .drvClassifyIrq { SI with txComplete := true }) (fun t => t.res == some 2) = true := by decide

/-- DR15: the last byte of the slice. -/
theorem test_buf_rd :
    shows (exec (.bufRd .rx 63) { SRxAct with mem := SRxAct.mem.store 0x4F [0x3F] }) (fun t => t.res == some 0x3F) =
      true := by decide
/-- DR17. -/
theorem test_buf_rd_unwritten : raises (.bufRd .tx 0) STxAct (.readUnwritten (.region 0x130)) = true := by decide

/-- P2, step 4. -/
theorem test_buf_wr : shows (exec (.bufWr .tx 0 0xDE) STxAct) (fun t => t.mem.read 0x130 == some 0xDE) = true := by decide
/-- As DR18: the offset is the claimed length. -/
theorem test_buf_wr_past_end : raises (.bufWr .tx 32 1) STxAct (.bufOutOfSlice .tx 32) = true := by decide

/-- DV3's first command, in the state before it. -/
theorem test_dev_set_rxq_base :
    shows (exec (.devSetRxqBase 0x10000000) { SL with rxState := .ready }) (fun t =>
      t.rxqBase == some 0x10000000 && t.rxqSet && t.hwRxIdx == some 0 && t.rxEnabled && t.pc == 2) = true := by decide
/-- DV1. -/
theorem test_dev_set_rxq_base_bad :
    raises (.devSetRxqBase 0x10000010) { SL with rxState := .ready } (.devBadBase .rxq 0x10000010) = true := by decide

/-- From DR28. -/
theorem test_dev_set_txq_base :
    shows (exec (.devSetTxqBase 0x10000110) { SL with txState := .ready }) (fun t =>
      t.txqBase == some 0x10000110 && t.txqSet && t.hwTxIdx == some 0 && !t.txRunning) = true := by decide

/-- DV8. -/
theorem test_dev_set_txq1_base_bad :
    raises (.devSetTxq1Base 0x10000110) { SL with dmyState := .ready } (.devBadBase .txq1 0x10000110) = true := by decide

/-- DV7's kick. -/
theorem test_dev_kick :
    shows (exec (.devKick 0x10000128) SI) (fun t => t == { SI with txRunning := true, pc := 2 }) = true := by decide
/-- DV5. -/
theorem test_dev_kick_bad : raises (.devKick 0x10000130) SI (.kickBadAddr 0x10000130) = true := by decide

/-- DV14. -/
theorem test_dev_clear_irq :
    shows (exec .devClearIrq SRx) (fun t => t == { SRx with rxComplete := false, pc := 2 }) = true := by decide

/-- E9, step 4. -/
theorem test_sim_rx_set_own :
    shows (exec (.simRxSetOwn 0) SI) (fun t => t.mem.readWord 0 == some 0x10000011 && t.hwRxIdx == some 0) = true := by
  decide
/-- DV19. -/
theorem test_sim_rx_set_own_slot : raises (.simRxSetOwn 4) SI (.illegalCommand 0x00000004000000F0) = true := by decide

/-- E8, step 5. -/
theorem test_sim_tx_set_own :
    shows (exec (.simTxSetOwn 0) SCl) (fun t => t.mem.readWord 0x114 == some 0x80008020 && t.txCursor == some 0) = true := by
  decide
/-- DV20. -/
theorem test_sim_tx_set_own_early : raises (.simTxSetOwn 0) SL (.notSetup (.simTxSetOwn 0)) = true := by decide

/-! One step each: the DMA agent. -/

/-- DV12, its first and last data bytes pinned. -/
theorem test_dma_rx_frame :
    shows (exec .dmaRxFrame { SI with
        draw := { data := 0x45 :: (List.range 63).map (fun j => BitVec.ofNat 8 (j + 1)), stat := none } }) (fun t =>
      t.mem.readWord 0 == some 0x10000011 && t.mem.read 0x10 == some 0x45 && t.mem.read 0x4F == some 0x3F &&
        t.hwRxIdx == some 1 && t.rxComplete && t.pc == 1) = true := by decide
/-- DV17. -/
theorem test_dma_rx_frame_outside :
    raises .dmaRxFrame { SI with mem := regionSI.writeWord 0 0x20000000 } (.dmaAddrOutOfRegion .rx 0x20000000) = true := by
  decide

/-- RX9's fifth arrival. -/
theorem test_dma_rx_drop :
    shows (exec .dmaRxDrop { SRx with hwRxIdx := some 0 }) (fun t => t == { SRx with hwRxIdx := some 0 }) = true := by
  decide

/-- DV9. -/
theorem test_dma_tx_frame :
    shows (exec .dmaTxFrame { STx with draw := { data := [], stat := some 0x1234 } }) (fun t =>
      t.mem.readWord 0x114 == some 0x92348002 && t.wireTx == [[0x01, 0x02]] && t.hwTxIdx == some 1 && t.txComplete &&
        t.txRunning) = true := by decide
/-- P4, step 10. -/
theorem test_dma_tx_frame_claimed :
    raises .dmaTxFrame { STxAct with txRunning := true } (.txDmaBeforeCommit 0) = true := by decide

/-- DV7's stop. -/
theorem test_dma_tx_stop :
    shows (exec .dmaTxStop { SI with txRunning := true }) (fun t => t == SI) = true := by decide

/-! One step of the machine. -/

/-- The placed word is what the next step runs. -/
theorem test_step_runs_placed_word :
    shows (step (SRx.withFetchWord 64 0x03)) (fun t => t.res == some 1 && t.pc == 2) = true ∧
      shows (step (STx.withFetchWord 64 0x82)) (fun t => t.hwTxIdx == some 1 && t.pc == 1) = true := by decide

/-- EN22. -/
theorem test_step_illegal_word :
    shows (step (SI.withFetchWord 64 0x17)) (fun t => t.fault == some (.illegalCommand 0x17) && t.pc == 1) = true := by
  decide

/-! Witnesses: for every statement with hypotheses, states and operands that meet them, clause by clause in the
statement's order. -/

/-- `SI` under another configuration, before `LAYOUT`. -/
def before (c : Config) : State := State.resetWith c

/-- `s` with the word `w` as its whole program, its turn next. -/
def withProgram (s : State) (w : CmdWord) : State := { s with program := [w], pc := 0, agenda := [.command] }

/-- `SI` with the receive handle live: no mutating command may run. -/
def SHeld : State := { SI with hrx := .live }

theorem witness_EncodeOfDecode : decode 0x80AB000500000016 = .ok (.bufWr .tx 5 0xAB) := by decide

theorem witness_IllegalWordRaises :
    ((withProgram SI 0x17).fault = none ∧ (withProgram SI 0x17).nextTurn = .command ∧
        (withProgram SI 0x17).program[(withProgram SI 0x17).pc]? = some 0x17 ∧ ¬ LegalWord SI.cfg 0x17) ∧
      (LegalWord K4 0xF0 ∧ ¬ LegalWord K4H0 0xF0 ∧ LegalWord K4H0 0x80AB000500000016) ∧
      (opField 0x00 = 0x00 ∧ 0x17 ≤ opField 0x17 ∧ opField 0x1F ≤ 0x1F ∧ 0x25 ≤ opField 0x25 ∧
        opField 0x80 ≤ 0xEF ∧ opField 0xEF ≤ 0xEF ∧ 0xF2 ≤ opField 0xF2 ∧ zField 0x103 ≠ 0) := by
  unfold LegalWord; decide

theorem witness_StepRunsDecodedCommand :
    (withProgram SRx 0x03).fault = none ∧ (withProgram SRx 0x03).nextTurn = .command ∧
      (withProgram SRx 0x03).program[(withProgram SRx 0x03).pc]? = some 0x03 ∧ decode 0x03 = .ok .rxAvail ∧
      Instr.rxAvail.isCommand = true := by decide

theorem witness_StepRunsDmaEvent :
    ({ STx with agenda := [.dma .txFrame .free] }.fault = none ∧
        { STx with agenda := [.dma .txFrame .free] }.nextTurn = .dma .txFrame .free) ∧
      ({ SI with agenda := [.command], pc := 0 }.nextTurn = .command ∧ SI.program.length ≤ 0) ∧
      (SL.fault = none ∧ SL.rxEnabled = false) ∧ (SI.fault = none ∧ SI.txRunning = false) ∧
      (SI.fault = none ∧ SI.rxEnabled = true ∧ SI.hwRxIdx = some 0 ∧ SI.layout = some layoutK4 ∧
        layoutK4.rxdOff 0 + 4 ≤ SI.cfg.size ∧ SI.mem.readWord (layoutK4.rxdOff 0) = some 0x10000010 ∧
        rxOwn 0x10000010 = false ∧ SRx.mem.readWord (layoutK4.rxdOff 0) = some 0x10000011 ∧ rxOwn 0x10000011 = true) ∧
      (STx.fault = none ∧ STx.txRunning = true ∧ STx.hwTxIdx = some 0 ∧ STx.layout = some layoutK4 ∧
        layoutK4.txd1Off 0 + 4 ≤ STx.cfg.size ∧ STx.mem.readWord (layoutK4.txd1Off 0) = some 0x00008002 ∧
        txUsed 0x00008002 = false ∧ SI.mem.readWord (layoutK4.txd1Off 3) = some 0xC0000000 ∧
        txUsed 0xC0000000 = true) := by decide

theorem witness_FaultIsTerminal :
    exec .rxRecvNext SI = .next { SI with fault := some (.rxRecvNotReady 0) } ∧
      { SI with fault := some (.rxRecvNotReady 0) }.fault = some (.rxRecvNotReady 0) ∧
      shows (step (withProgram SI 0x04)) (fun t => t.fault == some (.rxRecvNotReady 0)) = true :=
  ⟨rfl, rfl, by decide⟩

theorem witness_PcAdvancesByOne :
    exec .rxAvail SRx = .next { SRx with res := some 1, pc := 2 } ∧ SRx.fault = none ∧
      shows (step (withProgram SRx 0x03)) (fun t => t.fault == none && t.pc == 1) = true ∧
      shows (step { STx with agenda := [.dma .txFrame .free] }) (fun t => t.fault == none && t.pc == 1) = true :=
  ⟨rfl, rfl, by decide, by decide⟩

theorem witness_ConfigurationIsFixed :
    exec .drvInit S0 = .next SI ∧ shows (step (withProgram S0 0x0B)) (fun t => t.cfg == K4) = true :=
  ⟨rfl, by decide⟩

theorem witness_ResetTable : S0 = State.resetWith K4 := rfl

/-- The vectors LY26; LY20, LY21, LY22, LY23; LY4 and LY3; LY11, LY12, LY9; LY14 and LY15, LY19 and LY18. -/
theorem witness_LayoutRule :
    (SL.noHandle ∧ SL.layoutSet = true) ∧
      (¬ paramsLegal { K4 with n := 0 } ∧ ¬ paramsLegal { K4 with mtu := 62 } ∧ ¬ paramsLegal { K4 with mtu := 0 } ∧
        ¬ paramsLegal { K4 with mtu := 16384 } ∧ paramsLegal { K4 with n := 1, mtu := 4 } ∧
        paramsLegal { K4 with mtu := 16380 }) ∧
      (S0.noHandle ∧ S0.layoutSet = false ∧ 12 * 4 + 2 * 64 * 4 + 8 = 568 ∧ 567 < 568) ∧
      ¬ ((0x10000002 + 0) % 4 = 0) ∧
      ((0x10000004 + 0) % 4 = 0 ∧ ¬ ((0x10000004 + (4 * 4 + 64 * 4)) % 8 = 0)) ∧
      ((0x10000000 + (4 * 1 + 4 * 1)) % 8 = 0 ∧ ¬ ((0x10000000 + (12 * 1 + 2 * 4 * 1)) % 8 = 0)) ∧
      ((0xFFFFFE00 + (4 * 4 + 64 * 4)) % 8 = 0 ∧ (0xFFFFFE00 + (12 * 4 + 2 * 64 * 4)) % 8 = 0 ∧
        2 ^ 32 < 0xFFFFFE00 + 568 ∧ 0xFFFFFDC8 + 568 = 2 ^ 32) ∧
      (2 ^ 64 < 0xFFFFFFFFFFFFFE00 + 568 ∧ 0xFFFFFFFFFFFFFDC8 + 568 = 2 ^ 64) := by decide

/-- LY7, and K4; a one-slot ring at bases that are 4 mod 8; E4: "an odd N cannot lay out". -/
theorem witness_EvenRingDepthAligns :
    ((before { K4 with n := 1, mtu := 8, paBase := 4, vaBase := 4 }).noHandle ∧
      (4 * 1 + 8 * 1) % 8 ≠ 0 ∧ 12 * 1 + 2 * 8 * 1 + 8 ≤ K4.size ∧
      raises .layout (before { K4 with n := 1, mtu := 8, paBase := 4, vaBase := 4 }) (.cfgMisaligned .txd) = true) ∧
    (before { K4 with n := 3, size := 4096 }).noHandle ∧ (before { K4 with n := 3, size := 4096 }).layoutSet = false ∧
      12 * 3 + 2 * 64 * 3 + 8 ≤ 4096 ∧ K4.paBase % 8 = 0 ∧ K4.vaBase % 8 = 0 ∧ 12 * 4 + 2 * 64 * 4 + 8 ≤ K4.size := by
  decide

theorem witness_RxSetupRule :
    ¬ SHeld.noHandle ∧ (S0.noHandle ∧ S0.layoutSet = false) ∧
      (SI.noHandle ∧ SI.layoutSet = true ∧ SI.rxState = .ready) ∧
      (SL.noHandle ∧ SL.layoutSet = true ∧ SL.rxState = .uninit ∧ SL.layout = some layoutK4 ∧
        layoutK4.rxd.off + 4 * SL.cfg.n ≤ SL.cfg.size) := by decide

/-- The last slot, of either owner. -/
theorem witness_RxAvailRule :
    SL.rxState = .uninit ∧
      ({ SI with rxCursor := some 3 }.rxState = .ready ∧ SI.layout = some layoutK4 ∧
        layoutK4.rxd.off + 4 * 3 + 4 ≤ SI.cfg.size ∧ SI.mem.readWord (layoutK4.rxd.off + 4 * 3) = some 0x100000D2) := by
  decide

theorem witness_RxRecvNextRule :
    ¬ SHeld.noHandle ∧ (SL.noHandle ∧ SL.rxState = .uninit) ∧
      ({ SRx with rxBorrow := some 0 }.noHandle ∧ { SRx with rxBorrow := some 0 }.rxState = .ready) ∧
      (SI.noHandle ∧ SI.rxState = .ready ∧ SI.rxBorrow = none ∧ SI.rxCursor = some 0 ∧ SI.layout = some layoutK4 ∧
        layoutK4.rxd.off + 4 * 0 + 4 ≤ SI.cfg.size ∧ SI.mem.readWord 0 = some 0x10000010 ∧
        (0x10000010 : Word).getLsbD 0 = false ∧ SRx.mem.readWord 0 = some 0x10000011 ∧
        (0x10000011 : Word).getLsbD 0 = true) := by decide

/-- The last slot, RX14. -/
theorem witness_RxMarkDoneRule :
    ¬ SHeld.noHandle ∧ (SL.noHandle ∧ SL.rxState = .uninit) ∧
      (SI.noHandle ∧ SI.rxState = .ready ∧ SI.rxCursor = some 0 ∧ SI.layout = some layoutK4 ∧
        SI.mem.readWord 0 = some 0x10000010 ∧ (0x10000010 : Word).getLsbD 0 = false) ∧
      (layoutK4.rxd.off + 4 * 3 + 4 ≤ SI.cfg.size ∧
        (regionSI.writeWord 0x00C 0x100000D3).readWord (layoutK4.rxd.off + 4 * 3) = some 0x100000D3 ∧
        (0x100000D3 : Word).getLsbD 0 = true) := by decide

theorem witness_TxSetupRule :
    ¬ SHeld.noHandle ∧ (S0.noHandle ∧ S0.layoutSet = false) ∧
      (SI.noHandle ∧ SI.layoutSet = true ∧ SI.txState = .ready) ∧
      (SL.noHandle ∧ SL.layoutSet = true ∧ SL.txState = .uninit ∧ SL.layout = some layoutK4 ∧
        layoutK4.txd.off + 8 * SL.cfg.n ≤ SL.cfg.size) := by decide

theorem witness_TxAvailRule :
    SL.txState = .uninit ∧
      (SI.txState = .ready ∧ SI.txCursor = some 0 ∧ SI.layout = some layoutK4 ∧
        layoutK4.txd.off + 8 * 3 + 8 ≤ SI.cfg.size ∧ SI.mem.readWord (layoutK4.txd.off + 8 * 3 + 4) = some 0xC0000000 ∧
        SI.mem.readWord (layoutK4.txd.off + 8 * 0 + 4) = some 0x80000000) := by decide

/-- Lengths 64 and 65; the claimed and the free slot. -/
theorem witness_TxGetNextBufferRule :
    ¬ SHeld.noHandle ∧ (SL.noHandle ∧ SL.txState = .uninit) ∧
      (SCl.noHandle ∧ SCl.txState = .ready ∧ SCl.txClaim = some { slot := 0, len := 32 }) ∧
      (SI.noHandle ∧ SI.txState = .ready ∧ SI.txClaim = none ∧ SI.cfg.mtu < (65 : Word).toNat) ∧
      ((64 : Word).toNat ≤ SI.cfg.mtu ∧ SI.txCursor = some 0 ∧ SI.layout = some layoutK4 ∧
        layoutK4.txd.off + 8 * 0 + 8 ≤ SI.cfg.size ∧ SI.mem.readWord (layoutK4.txd.off + 8 * 0 + 4) = some 0x80000000 ∧
        (0x80000000 : Word).getLsbD 31 = true ∧ { SCl with txClaim := none }.mem.readWord 0x114 = some 0x00008020 ∧
        (0x00008020 : Word).getLsbD 31 = false) := by decide

theorem witness_TxSendCompleteRule :
    ¬ SHeld.noHandle ∧ (SL.noHandle ∧ SL.txState = .uninit) ∧
      (SI.noHandle ∧ SI.txState = .ready ∧ SI.txCursor = some 0 ∧ SI.txClaim.map Claim.slot ≠ some 0) ∧
      (SCl.noHandle ∧ SCl.txState = .ready ∧ SCl.txCursor = some 0 ∧ SCl.txClaim.map Claim.slot = some 0 ∧
        SCl.layout = some layoutK4) := by decide

theorem witness_DummySetupRule :
    ¬ SHeld.noHandle ∧ (S0.noHandle ∧ S0.layoutSet = false) ∧
      (SI.noHandle ∧ SI.layoutSet = true ∧ SI.dmyState = .ready) ∧
      (SL.noHandle ∧ SL.layoutSet = true ∧ SL.dmyState = .uninit ∧ SL.layout = some layoutK4 ∧
        layoutK4.dmy.off + 8 = SL.cfg.size) := by decide

theorem witness_DrvInitRule :
    ¬ SHeld.noHandle ∧
      exec .layout (before { K4 with size := 567 }) =
        .next { before { K4 with size := 567 } with fault := some (.cfgRegionTooSmall 568 567) } ∧
      (S0.noHandle ∧ S0.layoutSet = false ∧ S0.rxState = .uninit ∧ S0.txState = .uninit ∧ S0.dmyState = .uninit ∧
        S0.rxqSet = false ∧ S0.txqSet = false ∧ S0.txq1Set = false ∧ layoutAccepts S0.cfg) :=
  ⟨by decide, rfl, by decide⟩

theorem witness_InitSeqIsDrvInit : exec .drvInit S0 = .next SI ∧ SI.fault = none := ⟨rfl, rfl⟩

/-- The receive ring empty, and both rings ready. -/
theorem witness_DrvReceiveRule :
    ¬ SHeld.noHandle ∧ (SL.noHandle ∧ SL.constructed = false) ∧
      (SRx.noHandle ∧ SRx.constructed = true ∧ SRx.rxCursor = some 0 ∧ SRx.txCursor = some 0 ∧
        SRx.layout = some layoutK4 ∧ layoutK4.rxd.off + 4 * 0 + 4 ≤ SRx.cfg.size ∧
        SRx.mem.readWord (layoutK4.rxd.off + 4 * 0) = some 0x10000011 ∧ layoutK4.txd.off + 8 * 0 + 8 ≤ SRx.cfg.size ∧
        SRx.mem.readWord (layoutK4.txd.off + 8 * 0 + 4) = some 0x80000000 ∧ (0x10000011 : Word).getLsbD 0 = true ∧
        (0x80000000 : Word).getLsbD 31 = true) ∧
      (SI.constructed = true ∧ SI.mem.readWord 0 = some 0x10000010 ∧ (0x10000010 : Word).getLsbD 0 = false) := by decide

theorem witness_DrvTransmitRule :
    ¬ SHeld.noHandle ∧ (SL.noHandle ∧ SL.constructed = false) ∧
      (SI.noHandle ∧ SI.constructed = true ∧ SI.txCursor = some 0 ∧ SI.layout = some layoutK4 ∧
        layoutK4.txd.off + 8 * 0 + 8 ≤ SI.cfg.size ∧ SI.mem.readWord (layoutK4.txd.off + 8 * 0 + 4) = some 0x80000000 ∧
        (0x80000000 : Word).getLsbD 31 = true) ∧
      (SCl.noHandle ∧ SCl.constructed = true ∧ SCl.mem.readWord 0x114 = some 0x00008020 ∧
        (0x00008020 : Word).getLsbD 31 = false) := by decide

theorem witness_RxhBeginRule :
    (SI.hrx ≠ .live ∧ { SLive with htx := .active }.htx = .active) ∧
      ({ SL with hrx := .live }.hrx = .live ∧ SL.htx ≠ .active ∧ SL.rxState = .uninit) ∧
      ({ SLive with rxBorrow := some 0 }.hrx = .live ∧ SLive.htx ≠ .active ∧ SLive.rxState = .ready) ∧
      (SLive.rxBorrow = none ∧ SLive.rxCursor = some 0 ∧ SLive.layout = some layoutK4 ∧
        layoutK4.rxd.off + 4 * 0 + 4 ≤ SLive.cfg.size ∧
        SLive.mem.readWord (layoutK4.rxd.off + 4 * 0) = some 0x10000011 ∧ (0x10000011 : Word).getLsbD 0 = true) ∧
      (SHeld.hrx = .live ∧ SHeld.mem.readWord 0 = some 0x10000010 ∧ (0x10000010 : Word).getLsbD 0 = false) := by decide

theorem witness_RxhEndRule :
    SLive.hrx ≠ .active ∧ ({ SL with hrx := .active }.hrx = .active ∧ SL.rxState = .uninit) ∧
      (SRxAct.hrx = .active ∧ SRxAct.rxState = .ready ∧ SRxAct.rxCursor = some 0 ∧ SRxAct.layout = some layoutK4 ∧
        layoutK4.rxd.off + 4 * 0 + 4 ≤ SRxAct.cfg.size ∧
        SRxAct.mem.readWord (layoutK4.rxd.off + 4 * 0) = some 0x10000011 ∧ (0x10000011 : Word).getLsbD 0 = true) ∧
      ({ SI with hrx := .active }.hrx = .active ∧ SI.rxState = .ready ∧ SI.mem.readWord 0 = some 0x10000010 ∧
        (0x10000010 : Word).getLsbD 0 = false) := by decide

/-- Lengths 64 and 65 under either policy. -/
theorem witness_TxhBeginRule :
    (SI.htx ≠ .live ∧ SRxAct.hrx = .active) ∧
      ({ SI with htx := .live, cfg := K4R }.htx = .live ∧ SI.hrx ≠ .active ∧ K4R.mtu < (65 : Word).toNat ∧
        K4R.oversizePolicy = .reject) ∧
      ((64 : Word).toNat ≤ K4.mtu ∧ K4.mtu < (65 : Word).toNat ∧ K4.oversizePolicy = .truncate) ∧
      ({ SL with htx := .live }.htx = .live ∧ SL.txState = .uninit) ∧
      ({ SCl with htx := .live }.txState = .ready ∧ SCl.txClaim = some { slot := 0, len := 32 }) ∧
      ({ SI with htx := .live }.txState = .ready ∧ SI.txClaim = none ∧ SI.txCursor = some 0 ∧
        SI.layout = some layoutK4 ∧ layoutK4.txd.off + 8 * 0 + 8 ≤ SI.cfg.size ∧
        SI.mem.readWord (layoutK4.txd.off + 8 * 0 + 4) = some 0x80000000 ∧ (0x80000000 : Word).getLsbD 31 = true ∧
        SCl.mem.readWord 0x114 = some 0x00008020 ∧ (0x00008020 : Word).getLsbD 31 = false) := by decide

/-- The last slot is a descriptor; the slot after it is none. -/
theorem witness_TxhEndRule :
    SI.htx ≠ .active ∧ ({ SL with htx := .active }.htx = .active ∧ SL.txState = .uninit) ∧
      ({ SI with htx := .active }.htx = .active ∧ SI.txState = .ready ∧ SI.txCursor = some 0 ∧
        SI.txClaim.map Claim.slot ≠ some 0) ∧
      (STxAct.htx = .active ∧ STxAct.txState = .ready ∧ STxAct.txCursor = some 0 ∧
        STxAct.txClaim.map Claim.slot = some 0 ∧ STxAct.layout = some layoutK4 ∧
        { STxAct with txqSet := false }.txqSet = false ∧ STxAct.txqSet = true ∧ layoutK4.txd.pa + 8 * 3 < 2 ^ 32 ∧
        3 < STxAct.cfg.n ∧ STxAct.cfg.n ≤ 4 ∧
        { STxAct with txCursor := some 4, txClaim := some { slot := 4, len := 0 } }.txClaim.map Claim.slot = some 4) := by
  decide

theorem witness_HandleDropRule :
    (SI.hrx ≠ .live ∧ SRxAct.hrx ≠ .live) ∧ (SI.htx ≠ .live ∧ STxAct.htx ≠ .live) ∧ SLive.hrx = .live ∧
      SLive.htx = .live := by decide

theorem witness_IrqAndCapsRule : S0.fault = none ∧ SRx.fault = none := by decide

/-- The last byte of each slice, and the byte after it. -/
theorem witness_BufRdRule :
    (SI.rxBorrow = none ∧ SRxAct.cfg.mtu ≤ (64 : BitVec 16).toNat) ∧
      ((∀ k, SI.txClaim = some k → k.len ≤ 0) ∧ ∀ k, STxAct.txClaim = some k → k.len ≤ (32 : BitVec 16).toNat) ∧
      (SRxAct.layout = some layoutK4 ∧ SRxAct.rxBorrow = some 0 ∧ (63 : BitVec 16).toNat < SRxAct.cfg.mtu ∧
        layoutK4.rxb.off + SRxAct.cfg.mtu * 0 + 63 < SRxAct.cfg.size ∧
        SRxAct.mem.read (layoutK4.rxb.off + SRxAct.cfg.mtu * 0 + 63) = none) ∧
      (STxAct.layout = some layoutK4 ∧ STxAct.txClaim = some { slot := 0, len := 32 } ∧ (31 : BitVec 16).toNat < 32 ∧
        layoutK4.txb.off + STxAct.cfg.mtu * 0 + 31 < STxAct.cfg.size ∧
        (STxAct.mem.store 0x14F [0x7E]).read (layoutK4.txb.off + STxAct.cfg.mtu * 0 + 31) = some 0x7E) :=
  ⟨by decide, ⟨by intro k h; exact absurd h nofun, by intro k h; cases h; decide⟩, by decide, by decide⟩

theorem witness_BufWrRule :
    (SI.rxBorrow = none ∧ SRxAct.cfg.mtu ≤ (64 : BitVec 16).toNat) ∧
      (∀ k, STxAct.txClaim = some k → k.len ≤ (32 : BitVec 16).toNat) ∧
      (SRxAct.layout = some layoutK4 ∧ SRxAct.rxBorrow = some 0 ∧ (63 : BitVec 16).toNat < SRxAct.cfg.mtu ∧
        layoutK4.rxb.off + SRxAct.cfg.mtu * 0 + 63 < SRxAct.cfg.size) ∧
      (STxAct.layout = some layoutK4 ∧ STxAct.txClaim = some { slot := 0, len := 32 } ∧ (31 : BitVec 16).toNat < 32 ∧
        layoutK4.txb.off + STxAct.cfg.mtu * 0 + 31 < STxAct.cfg.size) :=
  ⟨by decide, by intro k h; cases h; decide, by decide, by decide⟩

theorem witness_DevSetBaseRule :
    ¬ SHeld.noHandle ∧ (SI.noHandle ∧ SI.rxqSet = true ∧ SI.txqSet = true ∧ SI.txq1Set = true) ∧
      (SL.noHandle ∧ SL.rxqSet = false ∧ SL.rxState = .uninit ∧ SL.txqSet = false ∧ SL.txState = .uninit ∧
        SL.txq1Set = false ∧ SL.dmyState = .uninit) ∧
      ({ SL with rxState := .ready, txState := .ready, dmyState := .ready }.noHandle ∧ SL.layout = some layoutK4 ∧
        (0x10000000 : Word).toNat = layoutK4.rxd.pa ∧ (0x10000004 : Word).toNat ≠ layoutK4.rxd.pa ∧
        (0x10000110 : Word).toNat = layoutK4.txd.pa ∧ (0x10000118 : Word).toNat ≠ layoutK4.txd.pa ∧
        (0x10000230 : Word).toNat = layoutK4.dmy.pa ∧ (0x10000110 : Word).toNat ≠ layoutK4.dmy.pa) := by decide

/-- The last descriptor, the address after it, and one inside it. -/
theorem witness_DevKickRule :
    SL.txqSet = false ∧ SI.txqSet = true ∧ SI.layout = some layoutK4 ∧
      (∀ i < SI.cfg.n, (0x10000130 : Word).toNat ≠ layoutK4.txd.pa + 8 * i) ∧
      (∀ i < SI.cfg.n, (0x10000114 : Word).toNat ≠ layoutK4.txd.pa + 8 * i) ∧
      (3 < SI.cfg.n ∧ (0x10000128 : Word).toNat = layoutK4.txd.pa + 8 * 3) := by decide

theorem witness_HarnessRule :
    ({ SI with cfg := K4H0 }.cfg.harness = false ∧ SI.cfg.n ≤ (4 : Word).toNat) ∧
      (SL.cfg.harness = true ∧ (3 : Word).toNat < SL.cfg.n ∧ SL.rxState = .uninit ∧ SL.txState = .uninit) ∧
      (SI.rxState = .ready ∧ SI.txState = .ready ∧ SI.layout = some layoutK4 ∧
        layoutK4.rxd.off + 4 * (3 : Word).toNat + 4 ≤ SI.cfg.size ∧
        SI.mem.readWord (layoutK4.rxd.off + 4 * (3 : Word).toNat) = some 0x100000D2 ∧
        layoutK4.txd.off + 8 * (3 : Word).toNat + 8 ≤ SI.cfg.size ∧
        SI.mem.readWord (layoutK4.txd.off + 8 * (3 : Word).toNat + 4) = some 0xC0000000) := by decide

/-- A stored frame in slots 0 and 3; DV17 on either side of the Region; DV16. -/
theorem witness_DmaRxFrameRule :
    (SI.fault = none ∧ SI.rxEnabled = true ∧ SI.hwRxIdx = some 0 ∧ SI.layout = some layoutK4 ∧
        layoutK4.rxd.off + 4 * 3 + 4 ≤ SI.cfg.size ∧ SI.mem.readWord (layoutK4.rxd.off + 4 * 0) = some 0x10000010 ∧
        (0x10000010 : Word).getLsbD 0 = false) ∧
      (0x0FFFFFFC < K4.paBase ∧ K4.paBase + K4.size < 0x100001FC + K4.mtu ∧ ((0x100001FE &&& 0xFFFFFFFC : Word)).toNat =
        0x100001FC) ∧
      (K4.paBase ≤ 0x100001F8 ∧ 0x100001F8 + K4.mtu ≤ K4.paBase + K4.size) ∧
      ((0x100000D0 : Word).getLsbD 1 = false ∧ K4.n ≤ 3 + 1) ∧
      ((0x100000D2 : Word).getLsbD 1 = true ∧ 2 + 1 < K4.n) := by decide

theorem witness_DmaRxDropRule :
    { SRx with hwRxIdx := some 0 }.fault = none ∧ SRx.rxEnabled = true ∧ SRx.layout = some layoutK4 ∧
      layoutK4.rxd.off + 4 * 0 + 4 ≤ SRx.cfg.size ∧ SRx.mem.readWord (layoutK4.rxd.off + 4 * 0) = some 0x10000011 ∧
      (0x10000011 : Word).getLsbD 0 = true := by decide

/-- A committed slot, a claimed one, and the ends of the Region and of the table. -/
theorem witness_DmaTxFrameRule :
    (STx.fault = none ∧ STx.txRunning = true ∧ STx.hwTxIdx = some 0 ∧ STx.layout = some layoutK4 ∧
        layoutK4.txd.off + 8 * 3 + 8 ≤ STx.cfg.size ∧ STx.mem.readWord (layoutK4.txd.off + 8 * 0 + 4) = some 0x00008002 ∧
        (0x00008002 : Word).getLsbD 31 = false ∧ STx.mem.readWord (layoutK4.txd.off + 8 * 0) = some 0x10000130 ∧
        ((0x00008002 &&& 0x00003FFF : Word)).toNat = 2) ∧
      ({ STxAct with txRunning := true }.txClaim.map Claim.slot = some 0 ∧ STx.txClaim.map Claim.slot ≠ some 0) ∧
      (0x0FFFFFFF < K4.paBase ∧ K4.paBase + K4.size < 0x10000237 + 2) ∧
      (K4.paBase ≤ 0x10000236 ∧ 0x10000236 + 2 ≤ K4.paBase + K4.size) ∧
      ((0x00008002 : Word).getLsbD 30 = false ∧ K4.n ≤ 3 + 1) ∧
      ((0x40008002 : Word).getLsbD 30 = true ∧ 2 + 1 < K4.n) := by decide

theorem witness_DmaTxStopRule :
    { SI with txRunning := true }.fault = none ∧ SI.hwTxIdx = some 0 ∧ SI.layout = some layoutK4 ∧
      layoutK4.txd.off + 8 * 0 + 8 ≤ SI.cfg.size ∧ SI.mem.readWord (layoutK4.txd.off + 8 * 0 + 4) = some 0x80000000 ∧
      (0x80000000 : Word).getLsbD 31 = true := by decide

theorem witness_HandlesAreExclusive :
    SHeld.fault = none ∧ Instr.drvInit.mutating = true ∧ ¬ SHeld.noHandle ∧ ¬ { SI with htx := .live }.noHandle := by
  decide

theorem witness_FrameOfQueries :
    exec .rxAvail SRx = .next { SRx with res := some 1, pc := 2 } ∧
      exec (.bufRd .tx 0) STxAct = .next { STxAct with fault := some (.readUnwritten (.region 0x130)) } := ⟨rfl, rfl⟩

theorem witness_FrameOfHandleCommands :
    exec .rxhBegin SLive = .next { SRxAct with res := some 0x40000010, pc := 2 } ∧
      exec (.handleDrop .tx) SLive = .next { SLive with htx := .none, pc := 2 } ∧
      exec .drvTransmit SI = .next { SI with htx := .live, pc := 2 } ∧
      exec .txSendComplete SCl = .next { SCl with
        res := some 0x10000110, txCursor := some 1, txClaim := none, pc := 2 } := ⟨rfl, rfl, rfl, rfl⟩

theorem witness_FrameOfDeviceCommands :
    exec (.devKick 0x10000128) SI = .next { SI with txRunning := true, pc := 2 } ∧
      exec .devClearIrq SRx = .next { SRx with rxComplete := false, pc := 2 } ∧
      exec (.devSetTxq1Base 0x10000230) { SL with dmyState := .ready } =
        .next { SL with dmyState := .ready, txq1Base := some 0x10000230, txq1Set := true, pc := 2 } := ⟨rfl, rfl, rfl⟩

theorem witness_FrameOfStores :
    shows (exec .rxMarkDone SRx) (fun t => t.fault == none) = true ∧ SRx.layout = some layoutK4 ∧
      SRx.rxCursor = some 0 ∧ shows (exec (.txGetNextBuffer 32) SI) (fun t => t.fault == none) = true ∧
      SI.txCursor = some 0 ∧ shows (exec (.simRxSetOwn 3) SI) (fun t => t.fault == none) = true ∧
      shows (exec (.simTxSetOwn 3) SI) (fun t => t.fault == none) = true ∧
      shows (exec (.bufWr .tx 31 1) STxAct) (fun t => t.fault == none) = true ∧
      sliceSlot? .tx 31 STxAct.cfg.mtu STxAct.rxBorrow STxAct.txClaim = some 0 := by decide

theorem witness_FrameOfConstruction :
    exec .drvInit S0 = .next SI ∧ SI.layout = some layoutK4 ∧
      shows (exec .rxSetup SL) (fun t => t.fault == none && t.layout == some layoutK4) = true := ⟨rfl, rfl, by decide⟩

theorem witness_FrameOfDmaSteps :
    shows (exec .dmaRxFrame SI) (fun t => t.fault == none) = true ∧ SI.layout = some layoutK4 ∧
      SI.hwRxIdx = some 0 ∧ shows (exec .dmaTxFrame STx) (fun t => t.fault == none) = true ∧ STx.hwTxIdx = some 0 ∧
      exec .dmaTxStop { SI with txRunning := true } = .next SI := ⟨by decide, rfl, rfl, by decide, rfl, rfl⟩

/-- The setup order holds in every state of this shape. -/
theorem setupInv_of {s : State} (hm : s.mem.wf) (hb : ∀ c ∈ s.mem, c.1 < s.cfg.size) (hl : s.layoutSet = true)
    (hL : s.layout = some (layoutFor s.cfg)) (ha : layoutAccepts s.cfg) (hd : s.constructed = true) {c p h t : Nat}
    (hc : c < s.cfg.n ∧ s.rxCursor = some c) (hp : p < s.cfg.n ∧ s.txCursor = some p)
    (hh : h < s.cfg.n ∧ s.hwRxIdx = some h) (ht : t < s.cfg.n ∧ s.hwTxIdx = some t) (he : s.rxEnabled = true)
    (b1 : s.rxqBase = some (paWord (layoutFor s.cfg).rxd.pa)) (b2 : s.txqBase = some (paWord (layoutFor s.cfg).txd.pa))
    (b3 : s.txq1Base = some (paWord (layoutFor s.cfg).dmy.pa)) (hbor : ∀ i, s.rxBorrow = some i → i = c)
    (hcl : ∀ k, s.txClaim = some k → k.slot = p ∧ k.len ≤ s.cfg.mtu) : SetupInv s := by
  simp only [State.constructed, Bool.and_eq_true, beq_iff_eq] at hd
  obtain ⟨⟨⟨⟨⟨d1, d2⟩, d3⟩, d4⟩, d5⟩, d6⟩ := hd
  exact {
    memWf := hm
    memInRegion := hb
    layoutUnset := fun h => by rw [hl] at h; exact absurd h nofun
    layoutIs := fun _ => ⟨hL, ha⟩
    rxNeedsLayout := fun _ => hl
    txNeedsLayout := fun _ => hl
    dmyNeedsLayout := fun _ => hl
    rxCursorLegal := fun _ => ⟨c, hc⟩
    txCursorLegal := fun _ => ⟨p, hp⟩
    rxUnset := fun h => by rw [d4] at h; exact absurd h nofun
    txUnset := fun h => by rw [d5] at h; exact absurd h nofun
    txq1Unset := fun h => by rw [d6] at h; exact absurd h nofun
    rxSet := fun _ => ⟨d1, he, b1, h, hh⟩
    txSet := fun _ => ⟨d2, b2, t, ht⟩
    txq1Set := fun _ => ⟨d3, b3⟩
    borrowAtCursor := fun i hi => ⟨d1, by rw [hbor i hi]; exact hc.2⟩
    claimAtCursor := fun k hk => ⟨d2, by rw [(hcl k hk).1]; exact hp.2, (hcl k hk).2⟩ }

theorem SI_setupInv : SetupInv SI :=
  setupInv_of (c := 0) (p := 0) (h := 0) (t := 0) (by decide) (by decide) rfl rfl (by decide) (by decide) (by decide)
    (by decide) (by decide) (by decide) rfl rfl rfl rfl nofun nofun

theorem SRxAct_setupInv : SetupInv SRxAct :=
  setupInv_of (c := 0) (p := 0) (h := 1) (t := 0) (by decide) (by decide) rfl rfl (by decide) (by decide) (by decide)
    (by decide) (by decide) (by decide) rfl rfl rfl rfl (by intro i h; cases h; rfl) nofun

theorem SRx_setupInv : SetupInv SRx :=
  setupInv_of (c := 0) (p := 0) (h := 1) (t := 0) (by decide) (by decide) rfl rfl (by decide) (by decide) (by decide)
    (by decide) (by decide) (by decide) rfl rfl rfl rfl nofun nofun

theorem SCl_setupInv : SetupInv SCl :=
  setupInv_of (c := 0) (p := 0) (h := 0) (t := 0) (by decide) (by decide) rfl rfl (by decide) (by decide) (by decide)
    (by decide) (by decide) (by decide) rfl rfl rfl rfl nofun (by intro k h; cases h; decide)

theorem STx_setupInv : SetupInv STx :=
  setupInv_of (c := 0) (p := 1) (h := 0) (t := 0) (by decide) (by decide) rfl rfl (by decide) (by decide) (by decide)
    (by decide) (by decide) (by decide) rfl rfl rfl rfl nofun nofun

/-- The words, the occupancy and the handles of a state, checked by evaluation. -/
theorem ringInv_of {s : State} (hs : SetupInv s) (hrx : ∀ i < s.cfg.n, rxEntryOk s i = true)
    (htx : ∀ i < s.cfg.n, txEntryOk s i = true)
    (hd : s.mem.readWord (layoutFor s.cfg).dmy0Off = some 0 ∧
      s.mem.readWord (layoutFor s.cfg).dmy1Off = some dummyStatus)
    (ho : ∀ c, s.rxCursor = some c → rxOwnedCount s (layoutFor s.cfg) ≤ s.cfg.n ∧
      (c + rxOwnedCount s (layoutFor s.cfg)) % s.cfg.n = s.hwRxIdx.getD 0 ∧
      ∀ i < s.cfg.n, rxOwned s (layoutFor s.cfg) i =
        decide ((i + s.cfg.n - c) % s.cfg.n < rxOwnedCount s (layoutFor s.cfg)))
    (hp : ∀ p, s.txCursor = some p → txBusyCount s (layoutFor s.cfg) ≤ s.cfg.n ∧
      (s.hwTxIdx.getD 0 + txBusyCount s (layoutFor s.cfg)) % s.cfg.n = (p + claimCount s) % s.cfg.n ∧
      (∀ i < s.cfg.n, txBusy s (layoutFor s.cfg) i =
        decide ((i + s.cfg.n - s.hwTxIdx.getD 0) % s.cfg.n < txBusyCount s (layoutFor s.cfg))) ∧
      ∀ k, s.txClaim = some k → k.slot = p ∧
        (p + s.cfg.n - s.hwTxIdx.getD 0) % s.cfg.n + 1 = txBusyCount s (layoutFor s.cfg)) (hh : HandleInv s) :
    RingInv s where
  setup := hs
  words := ⟨fun _ => hrx, fun _ => htx, fun _ => hd⟩
  rx := fun _ => ho
  tx := fun _ => hp
  handles := hh

theorem handleInv_of_none {s : State} (h : s.noHandle) : HandleInv s := by
  obtain ⟨h1, h2⟩ := h
  constructor <;> simp [h1, h2]

theorem SI_ringInv : RingInv SI :=
  ringInv_of SI_setupInv (by decide) (by decide) (by decide) (by intro c h; cases h; decide)
    (by intro p h; cases h; exact ⟨by decide, by decide, by decide, nofun⟩) (handleInv_of_none (by decide))

theorem SRx_ringInv : RingInv SRx :=
  ringInv_of SRx_setupInv (by decide) (by decide) (by decide) (by intro c h; cases h; decide)
    (by intro p h; cases h; exact ⟨by decide, by decide, by decide, nofun⟩) (handleInv_of_none (by decide))

theorem STx_ringInv : RingInv STx :=
  ringInv_of STx_setupInv (by decide) (by decide) (by decide) (by intro c h; cases h; decide)
    (by intro p h; cases h; exact ⟨by decide, by decide, by decide, nofun⟩) (handleInv_of_none (by decide))

theorem SRxAct_ringInv : RingInv SRxAct :=
  ringInv_of SRxAct_setupInv (by decide) (by decide) (by decide) (by intro c h; cases h; decide)
    (by intro p h; cases h; exact ⟨by decide, by decide, by decide, nofun⟩)
    { rxConstructed := fun _ => by decide
      txConstructed := fun _ => by decide
      rxReserved := fun _ c h => by cases h; decide
      rxActive := fun _ => rfl
      txReserved := fun _ c h => by cases h; decide
      txActive := nofun
      notBothActive := by decide }

theorem STxAct_ringInv : RingInv STxAct :=
  ringInv_of
    (setupInv_of (c := 0) (p := 0) (h := 0) (t := 0) (by decide) (by decide) rfl rfl (by decide) (by decide)
      (by decide) (by decide) (by decide) (by decide) rfl rfl rfl rfl nofun (by intro k h; cases h; decide))
    (by decide) (by decide) (by decide) (by intro c h; cases h; decide)
    (by intro p h; cases h; exact ⟨by decide, by decide, by decide, by intro k h; cases h; decide⟩)
    { rxConstructed := fun h => absurd rfl h
      txConstructed := fun _ => by decide
      rxReserved := fun h => absurd rfl h
      rxActive := nofun
      txReserved := nofun
      txActive := fun _ => rfl
      notBothActive := by decide }

theorem SLive_ringInv : RingInv SLive :=
  ringInv_of
    (setupInv_of (c := 0) (p := 0) (h := 1) (t := 0) (by decide) (by decide) rfl rfl (by decide) (by decide)
      (by decide) (by decide) (by decide) (by decide) rfl rfl rfl rfl nofun nofun)
    (by decide) (by decide) (by decide) (by intro c h; cases h; decide)
    (by intro p h; cases h; exact ⟨by decide, by decide, by decide, nofun⟩)
    { rxConstructed := fun _ => by decide
      txConstructed := fun _ => by decide
      rxReserved := fun _ c h => by cases h; decide
      rxActive := nofun
      txReserved := fun _ c h => by cases h; decide
      txActive := nofun
      notBothActive := by decide }

/-- A step from a state that meets the setup order. -/
theorem witness_SetupInvariantKept :
    SetupInv SRx ∧ shows (step (SRx.withFetchWord 64 0x05)) (fun t => t.rxCursor == some 1) = true :=
  ⟨SRx_setupInv, by decide⟩

theorem witness_RingWordsKept :
    SetupInv SRx ∧ RingWordsInv SRx ∧ shows (exec .rxMarkDone SRx) (fun t => t.fault == none) = true :=
  ⟨SRx_setupInv, SRx_ringInv.words, by decide⟩

/-- The invariants of a run without the harness: the parameter is in no invariant. -/
theorem ringInv_without_harness {s : State} (h : RingInv s) :
    RingInv { s with cfg := { s.cfg with harness := false } } where
  setup := ⟨h.setup.1, h.setup.2, h.setup.3, h.setup.4, h.setup.5, h.setup.6, h.setup.7, h.setup.8, h.setup.9,
    h.setup.10, h.setup.11, h.setup.12, h.setup.13, h.setup.14, h.setup.15, h.setup.16, h.setup.17⟩
  words := ⟨h.words.1, h.words.2, h.words.3⟩
  rx := h.rx
  tx := h.tx
  handles := ⟨h.handles.1, h.handles.2, h.handles.3, h.handles.4, h.handles.5, h.handles.6, h.handles.7⟩

/-- `SRx` in a run without the harness, and a step it has. -/
theorem SRx_without_harness :
    { SRx with cfg := K4H0 }.cfg.harness = false ∧ RingInv { SRx with cfg := K4H0 } ∧
      shows (step ({ SRx with cfg := K4H0 }.withFetchWord 64 0x05)) (fun t => t.rxCursor == some 1) = true :=
  ⟨rfl, ringInv_without_harness SRx_ringInv, by decide⟩

theorem witness_RxOccupancyKept :
    { SRx with cfg := K4H0 }.cfg.harness = false ∧ SetupInv { SRx with cfg := K4H0 } ∧
      RingWordsInv { SRx with cfg := K4H0 } ∧ RxOccupancy { SRx with cfg := K4H0 } :=
  ⟨rfl, SRx_without_harness.2.1.setup, SRx_without_harness.2.1.words, SRx_without_harness.2.1.rx⟩

theorem witness_TxOccupancyKept :
    { STx with cfg := K4H0 }.cfg.harness = false ∧ SetupInv { STx with cfg := K4H0 } ∧
      RingWordsInv { STx with cfg := K4H0 } ∧ TxOccupancy { STx with cfg := K4H0 } ∧
      shows (exec .dmaTxFrame { STx with cfg := K4H0 }) (fun t => t.hwTxIdx == some 1) = true :=
  ⟨rfl, (ringInv_without_harness STx_ringInv).setup, (ringInv_without_harness STx_ringInv).words,
    (ringInv_without_harness STx_ringInv).tx, by decide⟩

theorem witness_HandlesReserveSlots :
    { SLive with cfg := K4H0 }.cfg.harness = false ∧ RingInv { SLive with cfg := K4H0 } ∧
      shows (step ({ SLive with cfg := K4H0 }.withFetchWord 64 0x0E)) (fun t => t.hrx == .active) = true :=
  ⟨rfl, ringInv_without_harness SLive_ringInv, by decide⟩

theorem witness_AvailabilityIsStable :
    SetupInv STx ∧ RingWordsInv STx ∧ shows (exec .dmaTxFrame STx) (fun t => t.fault == none) = true ∧
      3 < STx.cfg.n ∧ STx.rxState = .ready ∧ STx.txState = .ready ∧ rxOwned SRx (layoutFor SRx.cfg) 0 = true ∧
      txBusy STx (layoutFor STx.cfg) 3 = false :=
  ⟨STx_setupInv, STx_ringInv.words, by decide⟩

theorem witness_HandleTransitions : exec .rxhBegin SLive = .next { SRxAct with res := some 0x40000010, pc := 2 } := rfl

theorem witness_DmaStepsComplete : STx.fault = none ∧ SetupInv STx ∧ RingWordsInv STx :=
  ⟨rfl, STx_setupInv, STx_ringInv.words⟩

theorem witness_OnlyBufRdReadsUnwritten :
    SetupInv STxAct ∧ RingWordsInv STxAct ∧
      exec (.bufRd .tx 0) STxAct = .next { STxAct with fault := some (.readUnwritten (.region 0x130)) } :=
  ⟨STxAct_ringInv.setup, STxAct_ringInv.words, rfl⟩

theorem witness_ValidHandlesSucceed :
    (SLive.fault = none ∧ RingInv SLive ∧ SLive.hrx = .live ∧ SLive.htx ≠ .active ∧ SLive.rxBorrow = none) ∧
      (SRxAct.fault = none ∧ RingInv SRxAct ∧ SRxAct.hrx = .active) ∧ (SLive.htx = .live ∧ SLive.hrx ≠ .active) ∧
      (STxAct.fault = none ∧ RingInv STxAct ∧ STxAct.htx = .active) :=
  ⟨⟨rfl, SLive_ringInv, by decide⟩, ⟨rfl, SRxAct_ringInv, rfl⟩, by decide, ⟨rfl, STxAct_ringInv, rfl⟩⟩

/-- `SI` with the engine kicked. -/
def SKick : State := { SI with txRunning := true }

theorem SKick_ringInv : RingInv SKick :=
  ringInv_of
    (setupInv_of (c := 0) (p := 0) (h := 0) (t := 0) (by decide) (by decide) rfl rfl (by decide) (by decide)
      (by decide) (by decide) (by decide) (by decide) rfl rfl rfl rfl nofun nofun)
    (by decide) (by decide) (by decide) (by intro c h; cases h; decide)
    (by intro p h; cases h; exact ⟨by decide, by decide, by decide, nofun⟩) (handleInv_of_none (by decide))

theorem witness_StoppedEngineIsDrained :
    RingInv SKick ∧ SKick.txRunning = true ∧ exec .dmaTxStop SKick = .next SI ∧ SI.txRunning = false :=
  ⟨SKick_ringInv, rfl, rfl, rfl⟩

/-- One committed frame to send. -/
def SDrain : State := { STx with agenda := [.dma .txFrame Draw.free, .dma .txStop Draw.free] }

theorem witness_RunningEngineDrains :
    SDrain.fault = none ∧ RingInv SDrain ∧ SDrain.txRunning = true ∧ SDrain.txClaim = none ∧
      txBusyCount SDrain (layoutFor SDrain.cfg) = 1 ∧
      SDrain.agenda = List.replicate 1 (.dma .txFrame Draw.free) ++ [.dma .txStop Draw.free] ∧
      SDrain.hwTxIdx = some 0 ∧ SDrain.mem.readWord ((layoutFor SDrain.cfg).txd1Off 0) = some 0x00008002 ∧
      txLen 0x00008002 = 2 ∧ SDrain.mem.read ((layoutFor SDrain.cfg).txbOff SDrain.cfg.mtu 0 + 1) = some 0x02 :=
  ⟨rfl,
    ringInv_of
      (setupInv_of (c := 0) (p := 1) (h := 0) (t := 0) (by decide) (by decide) rfl rfl (by decide) (by decide)
        (by decide) (by decide) (by decide) (by decide) rfl rfl rfl rfl nofun nofun)
      (by decide) (by decide) (by decide) (by intro c h; cases h; decide)
      (by intro p h; cases h; exact ⟨by decide, by decide, by decide, nofun⟩) (handleInv_of_none (by decide)),
    rfl, rfl, by decide, rfl, rfl, by decide, by decide, by decide⟩

end Sys2Proof.Tests
end

section
/-! SUPPORT. How a rule ends at its first check, and what an issued command answers behind its handle check
(00_scope.md R16, 44_driver.md R241). -/

namespace Sys2Proof.Machine

theorem require_bind_of {α : Type} {p : Prop} [Decidable p] (r : FaultRecord) (f : Unit → Attempt α) (h : p) :
    (require p r >>= f) = f () := by
  rw [require_of r h, Attempt.ok_bind]

theorem require_bind_of_not {α : Type} {p : Prop} [Decidable p] (r : FaultRecord) (f : Unit → Attempt α)
    (h : ¬ p) : (require p r >>= f) = .error (.raise r) := by
  rw [require_of_not r h, Attempt.error_bind]

theorem exclusive_of_noHandle {i : Instr} {op : State → Attempt State} {s : State} (h : s.noHandle) :
    exclusive i op s = op s :=
  require_bind_of _ _ h

theorem exclusive_of_held {i : Instr} {op : State → Attempt State} {s : State} (h : ¬ s.noHandle) :
    exclusive i op s = .error (.raise (.handleViolation i s.hrx s.htx)) :=
  require_bind_of_not _ _ h

section
variable {i : Instr} {op : State → Attempt State} {s : State}

/-- A command behind the handle check, issued while a handle is held. -/
theorem exec_exclusive_of_held (hb : bodyOf i = exclusive i op) (hf : s.fault = none) (h : ¬ s.noHandle) :
    exec i s = .next { s with fault := some (.handleViolation i s.hrx s.htx) } :=
  exec_of_raise hf (by rw [hb, exclusive_of_held h])

/-- A command behind the handle check, issued with no handle held, whose rule raises a fault. -/
theorem exec_exclusive_of_raise {r : FaultRecord} (hb : bodyOf i = exclusive i op) (hf : s.fault = none)
    (hn : s.noHandle) (h : op s = .error (.raise r)) : exec i s = .next { s with fault := some r } :=
  exec_of_raise hf (by rw [hb, exclusive_of_noHandle hn, h])

/-- A command behind the handle check, issued with no handle held, whose rule completes. -/
theorem exec_exclusive_of_ok {u : State} (hb : bodyOf i = exclusive i op) (hf : s.fault = none)
    (hn : s.noHandle) (h : op s = .ok u) : exec i s = .next (Instr.done i u) :=
  exec_of_ok hf (by rw [hb, exclusive_of_noHandle hn, h])

end

end Sys2Proof.Machine
end

section
/-! SUPPORT. The receive ring's words as 41_rx_ring.md writes them, and the faults its rules raise. -/

namespace Sys2Proof.Machine

/-- The entry of slot `i` with its bits written out (41_rx_ring.md R170). -/
theorem rxEntry_eq (c : Config) (L : Layout) (i : Nat) :
    rxEntry c L i = (BitVec.ofNat 32 (L.rxb.pa + i * c.mtu) &&& 0xFFFFFFFC) |||
      (if i + 1 = c.n then 0x00000002 else 0) := by
  simp only [rxEntry, rxSetupWord, paWord, Layout.rxbPa, RX_ADDR_MASK, RX_WRAP, beq_iff_eq]

/-- The released word with its mask written out (41_rx_ring.md R174). -/
theorem rxReleased_eq (w : Word) : rxReleased w = w &&& 0xFFFFFFFE := rfl

/-- The stored RX table changes no byte outside it. -/
theorem read_store_rxTable_outside {m : Memory} {c : Config} {L : Layout} {a : Nat}
    (h : a < L.rxdOff 0 ∨ L.rxdOff 0 + Config.RXD * c.n ≤ a) :
    (m.store (L.rxdOff 0) (rxTable c L)).read a = m.read a :=
  Memory.read_store_outside (by rwa [rxTable_length])

theorem rxSetupOp_of_noLayout {s : State} (h : s.layoutSet = false) :
    rxSetupOp s = .error (.raise (.notSetup .rxSetup)) :=
  require_bind_of_not _ _ (by simp [h])

theorem rxSetupOp_of_ready {s : State} (hl : s.layoutSet = true) (hr : s.rxState = .ready) :
    rxSetupOp s = .error (.raise (.setupTwice .rxSetup)) := by
  unfold rxSetupOp
  rw [require_bind_of _ _ hl, require_bind_of_not _ _ (by simp [hr])]

theorem rxCursorWord_of_uninit {s : State} (i : Instr) (h : s.rxState = .uninit) :
    rxCursorWord i s = .error (.raise (.notSetup i)) :=
  require_bind_of_not _ _ (by simp [h])

theorem rxAvailOp_of_uninit {s : State} (h : s.rxState = .uninit) :
    rxAvailOp s = .error (.raise (.notSetup .rxAvail)) := by
  unfold rxAvailOp
  rw [rxCursorWord_of_uninit _ h, Attempt.error_bind]

theorem rxMarkDoneOp_of_uninit {s : State} (h : s.rxState = .uninit) :
    rxMarkDoneOp s = .error (.raise (.notSetup .rxMarkDone)) := by
  unfold rxMarkDoneOp
  rw [rxCursorWord_of_uninit _ h, Attempt.error_bind]

theorem rxMarkDoneOp_of_hwOwned {s : State} {c : Nat} {L : Layout} {w : Word}
    (h : rxCursorWord .rxMarkDone s = .ok (c, L, w)) (hw : rxOwn w = false) :
    rxMarkDoneOp s = .error (.raise (.rxDoneNotReady c)) := by
  unfold rxMarkDoneOp
  rw [h, Attempt.ok_bind]
  exact require_bind_of_not _ _ (by simp [hw])

end Sys2Proof.Machine
end

section
/-! PROOFS. The receive ring's rules (41_rx_ring.md): `RX_SETUP`, `RX_AVAIL`, `RX_MARK_DONE`. -/

open Sys2Proof Sys2Proof.Machine

/-- Settles O14: the three refusals by the check that fails, and the effect from the stored table, read back entry
by entry and missed by every other byte. -/
theorem rxSetupRule : Obligations.RxSetupRule := by
  intro s hf
  refine ⟨exec_exclusive_of_held rfl hf,
    fun hn hl => exec_exclusive_of_raise rfl hf hn (rxSetupOp_of_noLayout hl),
    fun hn hl hr => exec_exclusive_of_raise rfl hf hn (rxSetupOp_of_ready hl hr), ?_⟩
  intro L hn hl hu hL hsize
  refine ⟨s.mem.store (L.rxdOff 0) (rxTable s.cfg L), ?effect, ?entries, ?frame⟩
  case effect =>
    exact exec_exclusive_of_ok rfl hf hn (rxSetupOp_ok_iff.mpr ⟨hl, hu, L, hL, hsize, rfl⟩)
  case entries =>
    intro i hi
    rw [← rxEntry_eq]
    exact readWord_store_rxTable s.mem s.cfg L hi
  case frame =>
    exact fun a ha => read_store_rxTable_outside ha

/-- Settles O15: the rule has no handle check, so its first check decides between the refusal and the answer. -/
theorem rxAvailRule : Obligations.RxAvailRule := by
  intro s hf
  refine ⟨fun hu => exec_of_raise hf (rxAvailOp_of_uninit hu), ?_⟩
  intro c L w hr hc hL hsize hw
  have hword : rxCursorWord .rxAvail s = .ok (c, L, w) := rxCursorWord_ok_iff.mpr ⟨hr, hc, hL, hsize, hw⟩
  exact exec_of_ok (i := .rxAvail) hf (rxAvailOp_ok_iff.mpr ⟨c, L, w, hword, rfl⟩)

/-- Settles O17: once the cursor's word is read, its ownership bit decides between the fault and the release. -/
theorem rxMarkDoneRule : Obligations.RxMarkDoneRule := by
  intro s hf
  refine ⟨exec_exclusive_of_held rfl hf,
    fun hn hu => exec_exclusive_of_raise rfl hf hn (rxMarkDoneOp_of_uninit hu), ?_⟩
  intro c L w hn hr hc hL hsize hw
  have hword : rxCursorWord .rxMarkDone s = .ok (c, L, w) := rxCursorWord_ok_iff.mpr ⟨hr, hc, hL, hsize, hw⟩
  refine ⟨fun hown => ?hwOwned, fun hown => ?swOwned⟩
  case hwOwned =>
    exact exec_exclusive_of_raise rfl hf hn (rxMarkDoneOp_of_hwOwned hword hown)
  case swOwned =>
    rw [← rxReleased_eq]
    exact exec_exclusive_of_ok rfl hf hn (rxMarkDoneOp_ok_iff.mpr ⟨c, L, w, hword, hown, rfl⟩)

end

section
/-! SUPPORT. The transmit ring's words as 42_tx_ring.md writes them, and the faults its rules raise. -/

namespace Sys2Proof.Machine

theorem known_bind_of {α β : Type} {v : Option α} {x : α} (u : Unwritten) (f : α → Attempt β) (h : v = some x) :
    (known v u >>= f) = f x := by
  rw [known_ok_iff.mpr h, Attempt.ok_bind]

/-- The address word of slot `i` with its address written out (42_tx_ring.md R200). -/
theorem paWord_txbPa (L : Layout) (mtu i : Nat) : paWord (L.txbPa mtu i) = BitVec.ofNat 32 (L.txb.pa + i * mtu) := rfl

/-- The status word of slot `i` with its bits written out (42_tx_ring.md R200). -/
theorem txSetupStatus_eq (n i : Nat) :
    txSetupStatus (i + 1 == n) = if i + 1 = n then 0xC0000000 else 0x80000000 := by
  by_cases hlast : i + 1 = n
  · rw [beq_iff_eq.mpr hlast, if_pos hlast]; decide
  · rw [beq_eq_false_iff_ne.mpr hlast, if_neg hlast]; decide

/-- The stored TX table changes no byte outside it. -/
theorem read_store_txTable_outside {m : Memory} {c : Config} {L : Layout} {a : Nat}
    (h : a < L.txd0Off 0 ∨ L.txd0Off 0 + Config.TXD * c.n ≤ a) :
    (m.store (L.txd0Off 0) (txTable c L)).read a = m.read a :=
  Memory.read_store_outside (by rwa [txTable_length])

theorem txSetupOp_of_noLayout {s : State} (h : s.layoutSet = false) :
    txSetupOp s = .error (.raise (.notSetup .txSetup)) :=
  require_bind_of_not _ _ (by simp [h])

theorem txSetupOp_of_ready {s : State} (hl : s.layoutSet = true) (hr : s.txState = .ready) :
    txSetupOp s = .error (.raise (.setupTwice .txSetup)) := by
  unfold txSetupOp
  rw [require_bind_of _ _ hl, require_bind_of_not _ _ (by simp [hr])]

theorem txAvailOp_of_uninit {s : State} (h : s.txState = .uninit) :
    txAvailOp s = .error (.raise (.notSetup .txAvail)) :=
  require_bind_of_not _ _ (by simp [h])

theorem txSendCompleteOp_of_uninit {s : State} (h : s.txState = .uninit) :
    txSendCompleteOp s = .error (.raise (.notSetup .txSendComplete)) :=
  require_bind_of_not _ _ (by simp [h])

theorem txSendCompleteOp_of_unclaimed {s : State} {c : Nat} (hr : s.txState = .ready) (hc : s.txCursor = some c)
    (hk : s.txClaim.map Claim.slot ≠ some c) : txSendCompleteOp s = .error (.raise .txNoClaim) := by
  unfold txSendCompleteOp
  rw [require_bind_of _ _ hr, known_bind_of _ _ hc, require_bind_of_not _ _ hk]

theorem txCommitOp_of_raise {s : State} {r : FaultRecord} (h : txSendCompleteOp s = .error (.raise r)) :
    txCommitOp s = .error (.raise r) := by
  unfold txCommitOp
  rw [h, Attempt.error_bind]

end Sys2Proof.Machine
end

section
/-! PROOFS. The transmit ring's rules (42_tx_ring.md): `TX_SETUP`, `TX_AVAIL`, `TX_SEND_COMPLETE`. -/

open Sys2Proof Sys2Proof.Machine

/-- Settles O18: the three refusals by the check that fails, and the effect from the stored table, whose records
are read back word by word and which every other byte misses. -/
theorem txSetupRule : Obligations.TxSetupRule := by
  intro s hf
  refine ⟨exec_exclusive_of_held rfl hf,
    fun hn hl => exec_exclusive_of_raise rfl hf hn (txSetupOp_of_noLayout hl),
    fun hn hl hr => exec_exclusive_of_raise rfl hf hn (txSetupOp_of_ready hl hr), ?_⟩
  intro L hn hl hu hL hsize
  refine ⟨s.mem.store (L.txd0Off 0) (txTable s.cfg L), ?effect, ?records, ?frame⟩
  case effect =>
    exact exec_exclusive_of_ok rfl hf hn (txSetupOp_ok_iff.mpr ⟨hl, hu, L, hL, hsize, rfl⟩)
  case records =>
    intro i hi
    rw [← paWord_txbPa, ← txSetupStatus_eq]
    exact ⟨readWord_store_txTable_addr s.mem s.cfg L hi, readWord_store_txTable_status s.mem s.cfg L hi⟩
  case frame =>
    exact fun a ha => read_store_txTable_outside ha

/-- Settles O19: the rule has no handle check, so its first check decides between the refusal and the answer. -/
theorem txAvailRule : Obligations.TxAvailRule := by
  intro s hf
  refine ⟨fun hu => exec_of_raise hf (txAvailOp_of_uninit hu), ?_⟩
  intro c L w hr hc hL hsize hw
  have hword : txCursorWord s = .ok (c, L, w) := txCursorWord_ok_iff.mpr ⟨hc, hL, hsize, hw⟩
  exact exec_of_ok (i := .txAvail) hf (txAvailOp_ok_iff.mpr ⟨hr, c, L, w, hword, rfl⟩)

/-- Settles O21: behind the ring's setup, whether the cursor's slot is the claimed one decides between the fault and
the commit. -/
theorem txSendCompleteRule : Obligations.TxSendCompleteRule := by
  intro s hf
  refine ⟨exec_exclusive_of_held rfl hf,
    fun hn hu => exec_exclusive_of_raise rfl hf hn (txCommitOp_of_raise (txSendCompleteOp_of_uninit hu)),
    fun c hn hr hc hk =>
      exec_exclusive_of_raise rfl hf hn (txCommitOp_of_raise (txSendCompleteOp_of_unclaimed hr hc hk)), ?_⟩
  intro c L hn hr hc hk hL
  have hsend := txSendCompleteOp_ok_iff.mpr ⟨hr, c, L, hc, hk, hL, rfl, rfl⟩
  exact exec_exclusive_of_ok rfl hf hn (txCommitOp_ok_iff.mpr ⟨paWord (L.txdPa c), hsend⟩)

end

section
/-! SUPPORT. The dummy record's words as 43_dummy_tx.md writes them, and the faults its rule raises. -/

namespace Sys2Proof.Machine

/-- The record's status word with its bits written out (43_dummy_tx.md R230). -/
theorem dummyStatus_eq : dummyStatus = 0xC0000000 := by decide

/-- The memory with the dummy record stored at its two words, as `dummySetupOp_ok_iff` has it. -/
def Memory.writeDummy (m : Memory) (L : Layout) : Memory :=
  (m.writeWord L.dmy0Off 0).writeWord L.dmy1Off dummyStatus

/-- The status word, stored second, misses the address word. -/
theorem readWord_writeDummy_addr (m : Memory) (L : Layout) : (m.writeDummy L).readWord L.dmy0Off = some 0 := by
  have hbelow : L.dmy0Off + 4 ≤ L.dmy1Off := Nat.le_refl _
  unfold Memory.writeDummy
  rw [Memory.readWord_writeWord_outside (.inl hbelow), Memory.readWord_writeWord]

theorem readWord_writeDummy_status (m : Memory) (L : Layout) :
    (m.writeDummy L).readWord L.dmy1Off = some dummyStatus :=
  Memory.readWord_writeWord _ _ _

/-- The stored record changes no byte outside it. -/
theorem read_writeDummy_outside {m : Memory} {L : Layout} {a : Nat}
    (h : a < L.dmy0Off ∨ L.dmy0Off + Config.TXD ≤ a) : (m.writeDummy L).read a = m.read a := by
  have haddr : a < L.dmy0Off ∨ L.dmy0Off + 4 ≤ a := h.imp_right (Nat.le_trans (Nat.add_le_add_left (by decide) _))
  have hstatus : a < L.dmy1Off ∨ L.dmy1Off + 4 ≤ a := h.imp_left (Nat.lt_add_right 4)
  unfold Memory.writeDummy
  rw [Memory.read_writeWord_outside hstatus, Memory.read_writeWord_outside haddr]

theorem dummySetupOp_of_noLayout {s : State} (h : s.layoutSet = false) :
    dummySetupOp s = .error (.raise (.notSetup .dummySetup)) :=
  require_bind_of_not _ _ (by simp [h])

theorem dummySetupOp_of_ready {s : State} (hl : s.layoutSet = true) (hr : s.dmyState = .ready) :
    dummySetupOp s = .error (.raise (.setupTwice .dummySetup)) := by
  unfold dummySetupOp
  rw [require_bind_of _ _ hl, require_bind_of_not _ _ (by simp [hr])]

end Sys2Proof.Machine
end

section
/-! PROOFS. The dummy descriptor's rule (43_dummy_tx.md): `DUMMY_SETUP`. -/

open Sys2Proof Sys2Proof.Machine

/-- Settles O22: the three refusals by the check that fails, and the effect from the stored record, whose two words
are read back and which every other byte misses. -/
theorem dummySetupRule : Obligations.DummySetupRule := by
  intro s hf
  refine ⟨exec_exclusive_of_held rfl hf,
    fun hn hl => exec_exclusive_of_raise rfl hf hn (dummySetupOp_of_noLayout hl),
    fun hn hl hr => exec_exclusive_of_raise rfl hf hn (dummySetupOp_of_ready hl hr), ?_⟩
  intro L hn hl hu hL hsize
  refine ⟨s.mem.writeDummy L, ?effect, ?address, ?status, ?frame⟩
  case effect =>
    exact exec_exclusive_of_ok rfl hf hn (dummySetupOp_ok_iff.mpr ⟨hl, hu, L, hL, hsize, rfl⟩)
  case address =>
    exact readWord_writeDummy_addr s.mem L
  case status =>
    rw [← dummyStatus_eq]
    exact readWord_writeDummy_status s.mem L
  case frame =>
    exact fun a ha => read_writeDummy_outside ha

end

section
/-! SUPPORT. The driver's rules (44_driver.md): which of them stand behind the handle check, what a constructed driver
has set up, and the faults they raise. -/

namespace Sys2Proof.Machine

/-- Every mutating command's rule begins with the handle check (44_driver.md R241). -/
theorem bodyOf_of_mutating {i : Instr} (h : i.mutating = true) : ∃ op, bodyOf i = exclusive i op := by
  cases i with
  | layout | rxSetup | rxRecvNext | rxMarkDone | txSetup | txGetNextBuffer _ | txSendComplete | dummySetup | drvInit
  | drvReceive | drvTransmit | devSetRxqBase _ | devSetTxqBase _ | devSetTxq1Base _ => exact ⟨_, rfl⟩
  | rxAvail | txAvail | rxhBegin | rxhEnd _ | txhBegin _ | txhEnd _ | handleDrop _ | drvCaps | drvClassifyIrq
  | bufRd _ _ | bufWr _ _ _ | devKick _ | devClearIrq | simRxSetOwn _ | simTxSetOwn _ | dmaRxFrame | dmaRxDrop
  | dmaTxFrame | dmaTxStop => cases h

theorem State.rxState_of_constructed {s : State} (h : s.constructed = true) : s.rxState = .ready := by
  simp only [State.constructed, Bool.and_eq_true, beq_iff_eq, and_assoc] at h
  exact h.1

theorem drvReceiveOp_of_unconstructed {s : State} (h : s.constructed = false) :
    drvReceiveOp s = .error (.raise (.notSetup .drvReceive)) :=
  require_bind_of_not _ _ (by simp [h])

theorem drvTransmitOp_of_unconstructed {s : State} (h : s.constructed = false) :
    drvTransmitOp s = .error (.raise (.notSetup .drvTransmit)) :=
  require_bind_of_not _ _ (by simp [h])

theorem handleDropOp_rx_of_notLive {s : State} (h : s.hrx ≠ .live) :
    handleDropOp .rx s = .error (.raise (.handleViolation (.handleDrop .rx) s.hrx s.htx)) :=
  require_bind_of_not _ _ h

theorem handleDropOp_tx_of_notLive {s : State} (h : s.htx ≠ .live) :
    handleDropOp .tx s = .error (.raise (.handleViolation (.handleDrop .tx) s.hrx s.htx)) :=
  require_bind_of_not _ _ h

/-- The classification written out, receive first (44_driver.md R254). -/
theorem irqClass_eq (rxComplete txComplete : Bool) :
    irqClass rxComplete txComplete = if rxComplete then 1 else if txComplete then 2 else 0 := rfl

/-- The capabilities word written out (44_driver.md R255). -/
theorem capsWord_eq (mtu : Nat) : capsWord mtu = BitVec.ofNat 64 (mtu ||| (1 <<< 16) ||| (1 <<< 24)) := rfl

theorem drvClassifyIrqOp_eq (s : State) :
    drvClassifyIrqOp s = .ok { s with res := some (irqClass s.rxComplete s.txComplete), st := some .ok } := rfl

theorem drvCapsOp_eq (s : State) : drvCapsOp s = .ok { s with res := some (capsWord s.cfg.mtu), st := some .ok } := rfl

theorem devClearIrqOp_eq (s : State) : devClearIrqOp s = .ok { s with rxComplete := false, txComplete := false } := rfl

end Sys2Proof.Machine
end

section
/-! PROOFS. The driver's handles and queries (44_driver.md): the handle check, `DRV_RECEIVE`, `DRV_TRANSMIT`,
`HANDLE_DROP`, `DRV_CLASSIFY_IRQ`, `DRV_CAPS` and `DEV_CLEAR_IRQ`. -/

open Sys2Proof Sys2Proof.Machine

/-- Settles O42: a mutating command's rule is its handle check first, and a held handle fails it. -/
theorem handlesAreExclusive : Obligations.HandlesAreExclusive := by
  intro i s hf hmut hheld
  obtain ⟨op, hbody⟩ := bodyOf_of_mutating hmut
  exact exec_exclusive_of_held hbody hf hheld

/-- Settles O25: once both cursor words are read, their ownership bits decide between the handles and `NOT_READY`. -/
theorem drvReceiveRule : Obligations.DrvReceiveRule := by
  intro s hf
  refine ⟨exec_exclusive_of_held rfl hf,
    fun hn hu => exec_exclusive_of_raise rfl hf hn (drvReceiveOp_of_unconstructed hu), ?_⟩
  intro c p L rw tw hn hcon hc hp hL hrsize hrw htsize htw
  have hrx : rxCursorWord .drvReceive s = .ok (c, L, rw) :=
    rxCursorWord_ok_iff.mpr ⟨State.rxState_of_constructed hcon, hc, hL, hrsize, hrw⟩
  have htx : txCursorWord s = .ok (p, L, tw) := txCursorWord_ok_iff.mpr ⟨hp, hL, htsize, htw⟩
  have hop := drvReceiveOp_ok_iff.mpr ⟨hcon, c, L, rw, p, L, tw, hrx, htx, rfl⟩
  refine ⟨fun hown => ?bothOwned, fun hown => ?notBoth⟩
  case bothOwned =>
    have hboth : (rxOwn rw && txUsed tw) = true := Bool.and_eq_true_iff.mpr hown
    rw [if_pos hboth] at hop
    exact exec_exclusive_of_ok rfl hf hn hop
  case notBoth =>
    have hnot : ¬ (rxOwn rw && txUsed tw) = true := mt Bool.and_eq_true_iff.mp hown
    rw [if_neg hnot] at hop
    exact exec_exclusive_of_ok rfl hf hn hop

/-- Settles O26: once the transmit cursor's word is read, its ownership bit decides between the handle and
`NOT_READY`. -/
theorem drvTransmitRule : Obligations.DrvTransmitRule := by
  intro s hf
  refine ⟨exec_exclusive_of_held rfl hf,
    fun hn hu => exec_exclusive_of_raise rfl hf hn (drvTransmitOp_of_unconstructed hu), ?_⟩
  intro p L tw hn hcon hp hL hsize htw
  have htx : txCursorWord s = .ok (p, L, tw) := txCursorWord_ok_iff.mpr ⟨hp, hL, hsize, htw⟩
  have hop := drvTransmitOp_ok_iff.mpr ⟨hcon, p, L, tw, htx, rfl⟩
  refine ⟨fun hown => ?swOwned, fun hown => ?hwOwned⟩
  case swOwned =>
    rw [if_pos (show txUsed tw = true from hown)] at hop
    exact exec_exclusive_of_ok rfl hf hn hop
  case hwOwned =>
    rw [if_neg (show txUsed tw ≠ true from Bool.eq_false_iff.mp hown)] at hop
    exact exec_exclusive_of_ok rfl hf hn hop

/-- Settles O31: for either handle, its one check decides between the fault and the release. -/
theorem handleDropRule : Obligations.HandleDropRule := by
  intro s hf
  refine ⟨fun hrx => ?rxFault, fun htx => ?txFault, fun hrx => ?rxRelease, fun htx => ?txRelease⟩
  case rxFault => exact exec_of_raise (i := .handleDrop .rx) hf (handleDropOp_rx_of_notLive hrx)
  case txFault => exact exec_of_raise (i := .handleDrop .tx) hf (handleDropOp_tx_of_notLive htx)
  case rxRelease => exact exec_of_ok (i := .handleDrop .rx) hf (handleDropOp_rx_ok_iff.mpr ⟨hrx, rfl⟩)
  case txRelease => exact exec_of_ok (i := .handleDrop .tx) hf (handleDropOp_tx_ok_iff.mpr ⟨htx, rfl⟩)

/-- Settles O32: none of the three rules has a check, so each completes with its one equation. -/
theorem irqAndCapsRule : Obligations.IrqAndCapsRule := by
  intro s hf
  rw [← irqClass_eq, ← capsWord_eq]
  exact ⟨exec_of_ok (i := .drvClassifyIrq) hf (drvClassifyIrqOp_eq s),
    exec_of_ok (i := .drvCaps) hf (drvCapsOp_eq s), exec_of_ok (i := .devClearIrq) hf (devClearIrqOp_eq s)⟩

end

section
/-! SUPPORT. Access to the open slice (44_driver.md R252, R253): which byte it finds, and a single byte stored and
read. -/

namespace Sys2Proof.Machine

theorem sliceSlot?_rx_eq_some_iff {off mtu i : Nat} {borrow : Option Nat} {claim : Option Claim} :
    sliceSlot? .rx off mtu borrow claim = some i ↔ borrow = some i ∧ off < mtu := by
  simp [sliceSlot?, Option.filter_eq_some_iff]

theorem sliceSlot?_tx_eq_some_iff {off mtu i : Nat} {borrow : Option Nat} {claim : Option Claim} :
    sliceSlot? .tx off mtu borrow claim = some i ↔ ∃ k, claim = some k ∧ off < k.len ∧ k.slot = i := by
  simp [sliceSlot?, Option.filter_eq_some_iff, and_assoc]

section
variable {s : State} {ring : Ring} {off : Nat}

theorem sliceByte_of_no_slot (h : ∀ i, sliceSlot? ring off s.cfg.mtu s.rxBorrow s.txClaim ≠ some i) :
    sliceByte ring off s = .error (.raise (.bufOutOfSlice ring off)) := by
  unfold sliceByte
  rw [Option.eq_none_iff_forall_ne_some.mpr h]

/-- No receive slice is open, or the byte lies past its `MTU` bytes. -/
theorem sliceByte_rx_of_outside (h : s.rxBorrow = none ∨ s.cfg.mtu ≤ off) :
    sliceByte .rx off s = .error (.raise (.bufOutOfSlice .rx off)) := by
  refine sliceByte_of_no_slot fun i hi => ?_
  obtain ⟨hborrow, hlt⟩ := sliceSlot?_rx_eq_some_iff.mp hi
  rcases h with hnone | hle
  · rw [hnone] at hborrow; cases hborrow
  · exact Nat.not_lt.mpr hle hlt

/-- No transmit slice is open, or the byte lies past the claimed length. -/
theorem sliceByte_tx_of_outside (h : ∀ k, s.txClaim = some k → k.len ≤ off) :
    sliceByte .tx off s = .error (.raise (.bufOutOfSlice .tx off)) := by
  refine sliceByte_of_no_slot fun i hi => ?_
  obtain ⟨k, hclaim, hlt, -⟩ := sliceSlot?_tx_eq_some_iff.mp hi
  exact Nat.not_lt.mpr (h k hclaim) hlt

/-- The byte of the open slice stands in its ring's buffer of the borrowed or claimed slot. -/
theorem sliceByte_of_inside {L : Layout} {a : Nat} (hL : s.layout = some L)
    (h : (∃ i, ring = .rx ∧ s.rxBorrow = some i ∧ off < s.cfg.mtu ∧ a = L.rxb.off + s.cfg.mtu * i + off) ∨
      ∃ k, ring = .tx ∧ s.txClaim = some k ∧ off < k.len ∧ a = L.txb.off + s.cfg.mtu * k.slot + off) :
    sliceByte ring off s = .ok a := by
  rcases h with ⟨i, rfl, hborrow, hlt, rfl⟩ | ⟨k, rfl, hclaim, hlt, rfl⟩
  · exact sliceByte_ok_iff.mpr ⟨i, L, sliceSlot?_rx_eq_some_iff.mpr ⟨hborrow, hlt⟩, hL, rfl⟩
  · exact sliceByte_ok_iff.mpr ⟨k.slot, L, sliceSlot?_tx_eq_some_iff.mpr ⟨k, hclaim, hlt, rfl⟩, hL, rfl⟩

end

theorem State.loadByte_of_unwritten {s : State} {a : Nat} (hsize : a < s.cfg.size) (h : s.mem.read a = none) :
    s.loadByte a = .error (.raise (.readUnwritten (.region a))) := by
  unfold State.loadByte
  rw [if_pos (Nat.succ_le_of_lt hsize)]
  exact known_error_iff.mpr ⟨h, rfl⟩

theorem Memory.read_store_byte (m : Memory) (a : Nat) (b : Byte) : (m.store a [b]).read a = some b := by
  rw [Memory.read_store, if_pos (by simp), Nat.sub_self, List.getElem?_cons_zero]

theorem Memory.read_store_byte_ne {m : Memory} {a x : Nat} (b : Byte) (h : x ≠ a) :
    (m.store a [b]).read x = m.read x :=
  Memory.read_store_outside (Nat.lt_or_gt_of_ne h)

section
variable {s : State} {ring : Ring} {off : BitVec 16}

theorem bufRdOp_of_slice_error {e : Stop} (h : sliceByte ring off.toNat s = .error e) :
    bufRdOp ring off s = .error e := by
  unfold bufRdOp
  rw [h, Attempt.error_bind]

theorem bufRdOp_of_unwritten {a : Nat} (hslice : sliceByte ring off.toNat s = .ok a) (hsize : a < s.cfg.size)
    (h : s.mem.read a = none) : bufRdOp ring off s = .error (.raise (.readUnwritten (.region a))) := by
  unfold bufRdOp
  rw [hslice, Attempt.ok_bind, State.loadByte_of_unwritten hsize h, Attempt.error_bind]

theorem bufWrOp_of_slice_error {b : Byte} {e : Stop} (h : sliceByte ring off.toNat s = .error e) :
    bufWrOp ring off b s = .error e := by
  unfold bufWrOp
  rw [h, Attempt.error_bind]

end

end Sys2Proof.Machine
end

section
/-! PROOFS. Buffer access (44_driver.md): `BUF_RD` and `BUF_WR`. -/

open Sys2Proof Sys2Proof.Machine

/-- Settles O33: outside the open slice the slice check fails; inside it, whether the byte is written decides between
the fault and the read. -/
theorem bufRdRule : Obligations.BufRdRule := by
  intro s off hf
  refine ⟨fun hrx => ?rxOutside, fun htx => ?txOutside, fun ring L a hL hin hsize => ?inside⟩
  case rxOutside =>
    exact exec_of_raise (i := .bufRd .rx off) hf (bufRdOp_of_slice_error (sliceByte_rx_of_outside hrx))
  case txOutside =>
    exact exec_of_raise (i := .bufRd .tx off) hf (bufRdOp_of_slice_error (sliceByte_tx_of_outside htx))
  case inside =>
    have hslice : sliceByte ring off.toNat s = .ok a := sliceByte_of_inside hL hin
    refine ⟨fun hnone => ?unwritten, fun b hb => ?written⟩
    case unwritten => exact exec_of_raise (i := .bufRd ring off) hf (bufRdOp_of_unwritten hslice hsize hnone)
    case written => exact exec_of_ok (i := .bufRd ring off) hf (bufRdOp_ok_iff.mpr ⟨a, b, hslice, hsize, hb, rfl⟩)

/-- Settles O34: outside the open slice the slice check fails; inside it one byte is stored, read back, and missed by
every other byte. -/
theorem bufWrRule : Obligations.BufWrRule := by
  intro s off b hf
  refine ⟨fun hrx => ?rxOutside, fun htx => ?txOutside, fun ring L a hL hin hsize => ?inside⟩
  case rxOutside =>
    exact exec_of_raise (i := .bufWr .rx off b) hf (bufWrOp_of_slice_error (sliceByte_rx_of_outside hrx))
  case txOutside =>
    exact exec_of_raise (i := .bufWr .tx off b) hf (bufWrOp_of_slice_error (sliceByte_tx_of_outside htx))
  case inside =>
    have hslice : sliceByte ring off.toNat s = .ok a := sliceByte_of_inside hL hin
    refine ⟨s.mem.store a [b], ?effect, Memory.read_store_byte _ _ _, fun x hx => Memory.read_store_byte_ne b hx⟩
    exact exec_of_ok (i := .bufWr ring off b) hf (bufWrOp_ok_iff.mpr ⟨a, hslice, hsize, rfl⟩)

end

section
/-! SUPPORT. The device commands' rules (45_dma_engine.md): what the three `DEV_SET_*` commands share, and the faults
that `DEV_KICK` and the harness commands raise. -/

namespace Sys2Proof.Machine

/-- What R290 to R292 share: the checks of `DEV_SET_*` command `i` behind its handle check. `isSet` says whether
register `reg` is written, `setup` whether its structure is set up, `base` where its structure stands, and `t` is the
state that writing it leaves. -/
def setBaseOp (i : Instr) (reg : BaseReg) (isSet : Bool) (setup : SetupState) (base : Layout → Nat) (pa : Word)
    (s t : State) : Attempt State := do
  require (isSet = false) (.setupTwice i)
  require (setup = .ready) (.notSetup i)
  let L ← s.layoutOf
  require (pa.toNat = base L) (.devBadBase reg pa)
  .ok t

theorem devSetRxqBaseOp_eq (pa : Word) (s : State) :
    devSetRxqBaseOp pa s = setBaseOp (.devSetRxqBase pa) .rxq s.rxqSet s.rxState (·.rxd.pa) pa s
      { s with rxqBase := some pa, rxqSet := true, hwRxIdx := some 0, rxEnabled := true } := rfl

theorem devSetTxqBaseOp_eq (pa : Word) (s : State) :
    devSetTxqBaseOp pa s = setBaseOp (.devSetTxqBase pa) .txq s.txqSet s.txState (·.txd.pa) pa s
      { s with txqBase := some pa, txqSet := true, hwTxIdx := some 0, txRunning := false } := rfl

theorem devSetTxq1BaseOp_eq (pa : Word) (s : State) :
    devSetTxq1BaseOp pa s = setBaseOp (.devSetTxq1Base pa) .txq1 s.txq1Set s.dmyState (·.dmy.pa) pa s
      { s with txq1Base := some pa, txq1Set := true } := rfl

section
variable {i : Instr} {reg : BaseReg} {isSet : Bool} {setup : SetupState} {base : Layout → Nat} {pa : Word}
  {s t : State}

theorem setBaseOp_of_set (h : isSet = true) :
    setBaseOp i reg isSet setup base pa s t = .error (.raise (.setupTwice i)) :=
  require_bind_of_not _ _ (by simp [h])

theorem setBaseOp_of_uninit (h : isSet = false) (hu : setup = .uninit) :
    setBaseOp i reg isSet setup base pa s t = .error (.raise (.notSetup i)) := by
  unfold setBaseOp
  rw [require_bind_of _ _ h, require_bind_of_not _ _ (by simp [hu])]

/-- Once the register may be written, the address decides. -/
theorem setBaseOp_of_ready {L : Layout} (h : isSet = false) (hr : setup = .ready) (hL : s.layout = some L) :
    setBaseOp i reg isSet setup base pa s t =
      (require (pa.toNat = base L) (.devBadBase reg pa) >>= fun _ => .ok t) := by
  unfold setBaseOp
  rw [require_bind_of _ _ h, require_bind_of _ _ hr, State.layoutOf_ok_iff.mpr hL, Attempt.ok_bind]

/-- R290 to R292 in one: what a command answers whose rule behind the handle check is `setBaseOp`. -/
theorem exec_setBase {op : State → Attempt State} (hb : bodyOf i = exclusive i op)
    (hop : op s = setBaseOp i reg isSet setup base pa s t) (hf : s.fault = none) :
    (s.noHandle → isSet = true → exec i s = .next { s with fault := some (.setupTwice i) }) ∧
    (s.noHandle → isSet = false → setup = .uninit → exec i s = .next { s with fault := some (.notSetup i) }) ∧
    (∀ L : Layout, s.noHandle → isSet = false → setup = .ready → s.layout = some L →
      (pa.toNat ≠ base L → exec i s = .next { s with fault := some (.devBadBase reg pa) }) ∧
      (pa.toNat = base L → exec i s = .next (Instr.done i t))) := by
  refine ⟨fun hn h => ?twice, fun hn h hu => ?early, fun L hn h hr hL => ?ready⟩
  case twice => exact exec_exclusive_of_raise hb hf hn (hop.trans (setBaseOp_of_set h))
  case early => exact exec_exclusive_of_raise hb hf hn (hop.trans (setBaseOp_of_uninit h hu))
  case ready =>
    have hready := hop.trans (setBaseOp_of_ready h hr hL)
    refine ⟨fun hpa => ?badBase, fun hpa => ?effect⟩
    case badBase => exact exec_exclusive_of_raise hb hf hn (hready.trans (require_bind_of_not _ _ hpa))
    case effect => exact exec_exclusive_of_ok hb hf hn (hready.trans (require_bind_of _ _ hpa))

end

theorem devKickOp_of_unprogrammed {pa : Word} {s : State} (h : s.txqSet = false) :
    devKickOp pa s = .error (.raise .devNotProgrammed) :=
  require_bind_of_not _ _ (by simp [h])

theorem devKickOp_of_badAddr {pa : Word} {s : State} {L : Layout} (h : s.txqSet = true) (hL : s.layout = some L)
    (hpa : ∀ i < s.cfg.n, pa.toNat ≠ L.txdPa i) : devKickOp pa s = .error (.raise (.kickBadAddr pa)) := by
  have hnot : ¬ L.isTxDescriptor s.cfg.n pa = true := by
    intro hdesc
    obtain ⟨i, hi, heq⟩ := Layout.isTxDescriptor_iff.mp hdesc
    exact hpa i hi heq
  unfold devKickOp
  rw [require_bind_of _ _ h, State.layoutOf_ok_iff.mpr hL, Attempt.ok_bind, require_bind_of_not _ _ hnot]

section
variable {s : State} {idx : Word}

theorem simRxSetOwn_wellFormed_iff {c : Config} :
    (Instr.simRxSetOwn idx).wellFormed c = true ↔ c.harness = true ∧ idx.toNat < c.n := by
  simp [Instr.wellFormed]

theorem simTxSetOwn_wellFormed_iff {c : Config} :
    (Instr.simTxSetOwn idx).wellFormed c = true ↔ c.harness = true ∧ idx.toNat < c.n := by
  simp [Instr.wellFormed]

theorem simRxSetOwnOp_of_illegal (h : ¬ (s.cfg.harness = true ∧ idx.toNat < s.cfg.n)) :
    simRxSetOwnOp idx s = .error (.raise (.illegalCommand (encode (.simRxSetOwn idx)))) :=
  require_bind_of_not _ _ (mt simRxSetOwn_wellFormed_iff.mp h)

theorem simTxSetOwnOp_of_illegal (h : ¬ (s.cfg.harness = true ∧ idx.toNat < s.cfg.n)) :
    simTxSetOwnOp idx s = .error (.raise (.illegalCommand (encode (.simTxSetOwn idx)))) :=
  require_bind_of_not _ _ (mt simTxSetOwn_wellFormed_iff.mp h)

theorem simRxSetOwnOp_of_uninit (h : s.cfg.harness = true ∧ idx.toNat < s.cfg.n) (hu : s.rxState = .uninit) :
    simRxSetOwnOp idx s = .error (.raise (.notSetup (.simRxSetOwn idx))) := by
  unfold simRxSetOwnOp requireHarness
  rw [require_bind_of _ _ (simRxSetOwn_wellFormed_iff.mpr h), require_bind_of_not _ _ (by simp [hu])]

theorem simTxSetOwnOp_of_uninit (h : s.cfg.harness = true ∧ idx.toNat < s.cfg.n) (hu : s.txState = .uninit) :
    simTxSetOwnOp idx s = .error (.raise (.notSetup (.simTxSetOwn idx))) := by
  unfold simTxSetOwnOp requireHarness
  rw [require_bind_of _ _ (simTxSetOwn_wellFormed_iff.mpr h), require_bind_of_not _ _ (by simp [hu])]

end

/-- The filled word with its bit written out (45_dma_engine.md R309). -/
theorem rxFilled_eq (w : Word) : rxFilled w = w ||| 1 := rfl

/-- The returned word with its bit written out (45_dma_engine.md R310). -/
theorem txReturned_eq (w : Word) : txReturned w = w ||| 0x80000000 := rfl

/-- Where the head's word is written, the DMA agent finds it (45_dma_engine.md R301). -/
theorem rxHead_of_written {s : State} {h : Nat} {L : Layout} {w : Word} (hh : s.hwRxIdx = some h)
    (hL : s.layout = some L) (hsize : L.rxdOff h + 4 ≤ s.cfg.size) (hw : s.mem.readWord (L.rxdOff h) = some w) :
    rxHead s = .ok (h, L, w) :=
  rxHead_ok_iff.mpr ⟨hh, hL, State.dmaWord_of_written hsize hw⟩

/-- Where the tail's status word is written, the DMA agent finds it (45_dma_engine.md R304). -/
theorem txTail_of_written {s : State} {t : Nat} {L : Layout} {w : Word} (ht : s.hwTxIdx = some t)
    (hL : s.layout = some L) (hsize : L.txd1Off t + 4 ≤ s.cfg.size) (hw : s.mem.readWord (L.txd1Off t) = some w) :
    txTail s = .ok (t, L, w) :=
  txTail_ok_iff.mpr ⟨ht, hL, State.dmaWord_of_written hsize hw⟩

end Sys2Proof.Machine
end

section
/-! PROOFS. The device commands, the harness commands and the DMA agent's two steps without a frame
(45_dma_engine.md): `DEV_SET_*`, `DEV_KICK`, `SIM_*_SET_OWN`, `DMA_RX_DROP` and `DMA_TX_STOP`. -/

open Sys2Proof Sys2Proof.Machine

/-- Settles O35: the handle check is every mutating command's, and the rest is the rule the three registers share. -/
theorem devSetBaseRule : Obligations.DevSetBaseRule := by
  intro s pa hf
  obtain ⟨rxqTwice, rxqEarly, rxqBase⟩ := exec_setBase rfl (devSetRxqBaseOp_eq pa s) hf
  obtain ⟨txqTwice, txqEarly, txqBase⟩ := exec_setBase rfl (devSetTxqBaseOp_eq pa s) hf
  obtain ⟨txq1Twice, txq1Early, txq1Base⟩ := exec_setBase rfl (devSetTxq1BaseOp_eq pa s) hf
  refine ⟨fun hheld => ⟨?_, ?_, ?_⟩, rxqTwice, rxqEarly, rxqBase, txqTwice, txqEarly, txqBase, txq1Twice, txq1Early,
    txq1Base⟩
  all_goals exact exec_exclusive_of_held rfl hf hheld

/-- Settles O36: the address check looks for a slot whose descriptor stands at the address. -/
theorem devKickRule : Obligations.DevKickRule := by
  intro s pa hf
  refine ⟨fun hunset => ?unprogrammed, fun L hset hL => ⟨fun hpa => ?badAddr, fun i hi hpa => ?kick⟩⟩
  case unprogrammed => exact exec_of_raise (i := .devKick pa) hf (devKickOp_of_unprogrammed hunset)
  case badAddr => exact exec_of_raise (i := .devKick pa) hf (devKickOp_of_badAddr hset hL hpa)
  case kick =>
    have hdesc : L.isTxDescriptor s.cfg.n pa = true := Layout.isTxDescriptor_iff.mpr ⟨i, hi, hpa⟩
    exact exec_of_ok (i := .devKick pa) hf (devKickOp_ok_iff.mpr ⟨hset, L, hL, hdesc, rfl⟩)

/-- Settles O37: whether the word is legal comes first, then whether the ring is set up; then one bit of the slot's
word is set. -/
theorem harnessRule : Obligations.HarnessRule := by
  intro s idx hf
  refine ⟨fun hbad => ?illegal, fun hharness hidx => ?legal⟩
  case illegal =>
    have hnot : ¬ (s.cfg.harness = true ∧ idx.toNat < s.cfg.n) := fun ⟨hharness, hidx⟩ =>
      hbad.elim (by simp [hharness]) (Nat.not_le.mpr hidx)
    exact ⟨exec_of_raise (i := .simRxSetOwn idx) hf (simRxSetOwnOp_of_illegal hnot),
      exec_of_raise (i := .simTxSetOwn idx) hf (simTxSetOwnOp_of_illegal hnot)⟩
  case legal =>
    refine ⟨fun hu => ?rxUninit, fun hu => ?txUninit, fun L w hr hL hsize hw => ?rxSet,
      fun L w hr hL hsize hw => ?txSet⟩
    case rxUninit => exact exec_of_raise (i := .simRxSetOwn idx) hf (simRxSetOwnOp_of_uninit ⟨hharness, hidx⟩ hu)
    case txUninit => exact exec_of_raise (i := .simTxSetOwn idx) hf (simTxSetOwnOp_of_uninit ⟨hharness, hidx⟩ hu)
    case rxSet =>
      rw [← rxFilled_eq]
      exact exec_of_ok (i := .simRxSetOwn idx) hf
        (simRxSetOwnOp_ok_iff.mpr ⟨hharness, hidx, hr, L, w, hL, hsize, hw, rfl⟩)
    case txSet =>
      rw [← txReturned_eq]
      exact exec_of_ok (i := .simTxSetOwn idx) hf
        (simTxSetOwnOp_ok_iff.mpr ⟨hharness, hidx, hr, L, w, hL, hsize, hw, rfl⟩)

/-- Settles O39: the head's word is found, and the rule has no effect. -/
theorem dmaRxDropRule : Obligations.DmaRxDropRule := by
  intro s h L w hf _ hh hL hsize hw _
  have hhead : rxHead s = .ok (h, L, w) := rxHead_of_written hh hL hsize hw
  exact exec_of_ok (i := .dmaRxDrop) hf (dmaRxDropOp_ok_iff.mpr ⟨rfl, fun _ => ⟨_, hhead⟩⟩)

/-- Settles O41: the tail's word is found to be software's, and the rule only stops the engine. -/
theorem dmaTxStopRule : Obligations.DmaTxStopRule := by
  intro s t L w hf hrun ht hL hsize hw hown
  have htail : txTail s = .ok (t, L, w) := txTail_of_written ht hL hsize hw
  have hused : txUsed w = true := hown
  exact exec_of_ok (i := .dmaTxStop) hf
    (dmaTxStopOp_ok_iff.mpr (.inr ⟨hrun, t, L, w, htail, (if_pos hused).symm⟩))

end

section
/-! SUPPORT. The decoder against the encoder, instruction by instruction, and the rows of the opcode table as the
must-be-zero bits of each argument (30_encoding.md R123 to R130). -/

namespace Sys2Proof

/-- The operation code and the argument of an instruction decode to it (30_encoding.md R124, R127, R128). -/
theorem decodeOp_opcode_arg (i : Instr) : decodeOp i.opcode i.arg = .ok i := by
  cases i with
  | handleDrop which => cases which <;> rfl
  | bufRd ring off =>
    have hzero : (ring.bit ++ (0#15 ++ off)).extractLsb' 16 15 = 0#15 := by
      rw [BitVec.extractLsb'_append_eq_of_add_le (by omega), BitVec.extractLsb'_append_eq_left]
    have hoff : (ring.bit ++ (0#15 ++ off)).extractLsb' 0 16 = off := by
      rw [BitVec.extractLsb'_append_eq_of_add_le (by omega), BitVec.extractLsb'_append_eq_right]
    simp only [Instr.opcode, Instr.arg, decodeOp, hzero, hoff]
    exact whenZero_ok_iff.mpr ⟨rfl, by rw [ringOfArg_append]⟩
  | bufWr ring off byte =>
    have hzero : (ring.bit ++ (0#7 ++ (byte ++ off))).extractLsb' 24 7 = 0#7 := by
      rw [BitVec.extractLsb'_append_eq_of_add_le (by omega), BitVec.extractLsb'_append_eq_left]
    have hoff : (ring.bit ++ (0#7 ++ (byte ++ off))).extractLsb' 0 16 = off := by
      rw [BitVec.extractLsb'_append_eq_of_add_le (by omega), BitVec.extractLsb'_append_eq_of_add_le (by omega),
        BitVec.extractLsb'_append_eq_right]
    have hbyte : (ring.bit ++ (0#7 ++ (byte ++ off))).extractLsb' 16 8 = byte := by
      rw [BitVec.extractLsb'_append_eq_of_add_le (by omega), BitVec.extractLsb'_append_eq_of_add_le (by omega),
        BitVec.extractLsb'_append_eq_left]
    simp only [Instr.opcode, Instr.arg, decodeOp, hzero, hoff, hbyte]
    exact whenZero_ok_iff.mpr ⟨rfl, by rw [ringOfArg_append]⟩
  | layout | rxSetup | rxAvail | rxRecvNext | rxMarkDone | txSetup | txAvail | txGetNextBuffer _ | txSendComplete
  | dummySetup | drvInit | drvReceive | drvTransmit | rxhBegin | rxhEnd _ | txhBegin _ | txhEnd _ | drvCaps
  | drvClassifyIrq | devSetRxqBase _ | devSetTxqBase _ | devSetTxq1Base _ | devKick _ | devClearIrq | simRxSetOwn _
  | simTxSetOwn _ | dmaRxFrame | dmaRxDrop | dmaTxFrame | dmaTxStop => rfl

/-- The ring selector read from an argument is its top bit. -/
theorem ringOfArg_bit (arg : Word) : (ringOfArg arg).bit = arg.extractLsb' 31 1 := by
  ext i hi
  obtain rfl : i = 0 := by omega
  rw [BitVec.getElem_extractLsb']
  unfold ringOfArg
  cases arg.getLsbD (31 + 0) <;> simp [Ring.bit]

/-- The handle selector read from an argument is its lowest bit. -/
theorem whichOfArg_bit (arg : Word) : (whichOfArg arg).bit = arg.extractLsb' 0 1 := by
  ext i hi
  obtain rfl : i = 0 := by omega
  rw [BitVec.getElem_extractLsb']
  unfold whichOfArg
  cases arg.getLsbD (0 + 0) <;> simp [Which.bit]

/-- A decoder branch without an argument. -/
theorem whenZero_noArg {arg : Word} {i j : Instr} (h : whenZero (arg == 0) arg i = .ok j) : i = j ∧ arg = 0 := by
  obtain ⟨hz, rfl⟩ := whenZero_ok_iff.mp h
  exact ⟨rfl, beq_iff_eq.mp hz⟩

/-- An instruction that an operation code and an argument decode to has that code and that argument: in each branch
of the decoder the fields it reads, put together, are the argument. -/
theorem opcode_arg_of_decodeOp {op : Byte} {arg : Word} {i : Instr} (h : decodeOp op arg = .ok i) :
    i.opcode = op ∧ i.arg = arg := by
  unfold decodeOp at h
  split at h
  case h_1 | h_2 | h_3 | h_4 | h_5 | h_6 | h_7 | h_9 | h_10 | h_11 | h_12 | h_13 | h_14 | h_19 | h_20 | h_27 | h_28
      | h_29 | h_30 | h_31 =>
    obtain ⟨rfl, rfl⟩ := whenZero_noArg h
    exact ⟨rfl, rfl⟩
  case h_8 | h_15 | h_16 | h_17 | h_23 | h_24 | h_25 | h_26 | h_32 | h_33 =>
    cases h
    exact ⟨rfl, rfl⟩
  case h_18 =>
    obtain ⟨hz, rfl⟩ := whenZero_ok_iff.mp h
    refine ⟨rfl, ?_⟩
    simp only [Instr.arg, whichOfArg_bit]
    rw [← BitVec.ofNat_eq_ofNat, ← beq_iff_eq.mp hz,
      BitVec.extractLsb'_append_extractLsb'_eq_extractLsb' (show 1 = 0 + 1 from rfl), BitVec.extractLsb'_eq_self]
  case h_21 =>
    obtain ⟨hz, rfl⟩ := whenZero_ok_iff.mp h
    refine ⟨rfl, ?_⟩
    simp only [Instr.arg, ringOfArg_bit]
    rw [← BitVec.ofNat_eq_ofNat, ← beq_iff_eq.mp hz,
      BitVec.extractLsb'_append_extractLsb'_eq_extractLsb' (show 16 = 0 + 16 from rfl),
      BitVec.extractLsb'_append_extractLsb'_eq_extractLsb' (show 31 = 0 + (15 + 16) from rfl),
      BitVec.extractLsb'_eq_self]
  case h_22 =>
    obtain ⟨hz, rfl⟩ := whenZero_ok_iff.mp h
    refine ⟨rfl, ?_⟩
    simp only [Instr.arg, ringOfArg_bit]
    rw [← BitVec.ofNat_eq_ofNat, ← beq_iff_eq.mp hz,
      BitVec.extractLsb'_append_extractLsb'_eq_extractLsb' (show 16 = 0 + 16 from rfl),
      BitVec.extractLsb'_append_extractLsb'_eq_extractLsb' (show 24 = 0 + (8 + 16) from rfl),
      BitVec.extractLsb'_append_extractLsb'_eq_extractLsb' (show 31 = 0 + (7 + (8 + 16)) from rfl),
      BitVec.extractLsb'_eq_self]
  case h_34 => cases h

/-- A word that decodes has the code and the argument of its instruction. -/
theorem encode_of_decode {w : CmdWord} {i : Instr} (h : decode w = .ok i) : encode i = w := by
  obtain ⟨hz, hop⟩ := decode_ok_iff.mp h
  obtain ⟨hcode, harg⟩ := opcode_arg_of_decodeOp hop
  unfold encode
  rw [hcode, harg, cmdWord_of_fields hz]

theorem decode_encode (i : Instr) : decode (encode i) = .ok i := by
  have hop : opField (encode i) = i.opcode := opField_cmdWord _ _
  have harg : argField (encode i) = i.arg := argField_cmdWord _ _
  exact decode_ok_iff.mpr ⟨zField_cmdWord _ _, by rw [hop, harg, decodeOp_opcode_arg]⟩

/-- The must-be-zero bits of an instruction's argument (30_encoding.md R124, R126). -/
def Instr.argMask : Instr → Word
  | .txGetNextBuffer _ | .rxhEnd _ | .txhBegin _ | .txhEnd _ | .devSetRxqBase _ | .devSetTxqBase _
  | .devSetTxq1Base _ | .devKick _ | .simRxSetOwn _ | .simTxSetOwn _ => 0
  | .handleDrop _ => 0xFFFFFFFE
  | .bufRd _ _ => 0x7FFF0000
  | .bufWr _ _ _ => 0x7F000000
  | .layout | .rxSetup | .rxAvail | .rxRecvNext | .rxMarkDone | .txSetup | .txAvail | .txSendComplete
  | .dummySetup | .drvInit | .drvReceive | .drvTransmit | .rxhBegin | .drvCaps | .drvClassifyIrq | .devClearIrq
  | .dmaRxFrame | .dmaRxDrop | .dmaTxFrame | .dmaTxStop => 0xFFFFFFFF

/-- The mask and the pattern an instruction's row has: its must-be-zero bits, `Z`, and its code. -/
def Instr.rowBits (i : Instr) : CmdWord × CmdWord := (i.argMask ++ (0xFFFFFF#24 ++ 0xFF#8), cmdWord 0 i.opcode)

/-- The commands of 30_encoding.md R127 in the order of the opcode table, each with some operand. -/
def commandForms : List Instr :=
  [.layout, .rxSetup, .rxAvail, .rxRecvNext, .rxMarkDone, .txSetup, .txAvail, .txGetNextBuffer 0, .txSendComplete,
    .dummySetup, .drvInit, .drvReceive, .drvTransmit, .rxhBegin, .rxhEnd 0, .txhBegin 0, .txhEnd 0, .handleDrop .rx,
    .drvCaps, .drvClassifyIrq, .bufRd .rx 0, .bufWr .rx 0 0, .devSetRxqBase 0, .devSetTxqBase 0, .devSetTxq1Base 0,
    .devKick 0, .devClearIrq, .simRxSetOwn 0, .simTxSetOwn 0]

/-- The opcode table's command rows are the rows of the commands. -/
theorem commandRows_eq :
    (softwareRows ++ deviceRows).map (fun r => (r.mask, r.pattern)) = commandForms.map Instr.rowBits := by decide

section
variable (a : Word) (z : BitVec 24) (o : Byte)

theorem argField_append : argField (a ++ (z ++ o)) = a := BitVec.extractLsb'_append_eq_left

theorem zField_append : zField (a ++ (z ++ o)) = z := by
  unfold zField
  rw [BitVec.extractLsb'_append_eq_of_add_le (by omega)]
  exact BitVec.extractLsb'_append_eq_left

theorem opField_append : opField (a ++ (z ++ o)) = o := by
  unfold opField
  rw [BitVec.extractLsb'_append_eq_of_add_le (by omega)]
  exact BitVec.extractLsb'_append_eq_right

end

theorem append_fields (w : CmdWord) : argField w ++ (zField w ++ opField w) = w := by
  unfold argField zField opField
  rw [BitVec.extractLsb'_append_extractLsb'_eq_extractLsb' (show 8 = 0 + 8 from rfl),
    BitVec.extractLsb'_append_extractLsb'_eq_extractLsb' (show 32 = 0 + (24 + 8) from rfl),
    BitVec.extractLsb'_eq_self]

theorem commandForms_isCommand : ∀ i ∈ commandForms, i.isCommand = true := by decide

/-- No command has a reserved code (30_encoding.md R128, R129). -/
theorem commandForms_not_reserved : ∀ i ∈ commandForms, ¬ (i.opcode = 0x00 ∨ (0x17 ≤ i.opcode ∧ i.opcode ≤ 0x1F) ∨
    (0x25 ≤ i.opcode ∧ i.opcode ≤ 0xEF) ∨ 0xF2 ≤ i.opcode) := by decide

/-- Every command row is the row of some command. -/
theorem exists_commandForm {r : OpcodeRow} (h : r ∈ softwareRows ++ deviceRows) :
    ∃ i ∈ commandForms, (r.mask, r.pattern) = i.rowBits := by
  have hmem : (r.mask, r.pattern) ∈ commandForms.map Instr.rowBits := by
    rw [← commandRows_eq]
    exact List.mem_map.mpr ⟨r, h, rfl⟩
  obtain ⟨i, hi, hbits⟩ := List.mem_map.mp hmem
  exact ⟨i, hi, hbits.symm⟩

/-- Every command has its row in the table: a row does not depend on the operand. -/
theorem rowBits_mem_commandForms {i : Instr} (h : i.isCommand = true) : i.rowBits ∈ commandForms.map Instr.rowBits := by
  cases i with
  | txGetNextBuffer _ => exact List.mem_map.mpr ⟨.txGetNextBuffer 0, by decide, rfl⟩
  | rxhEnd _ => exact List.mem_map.mpr ⟨.rxhEnd 0, by decide, rfl⟩
  | txhBegin _ => exact List.mem_map.mpr ⟨.txhBegin 0, by decide, rfl⟩
  | txhEnd _ => exact List.mem_map.mpr ⟨.txhEnd 0, by decide, rfl⟩
  | handleDrop _ => exact List.mem_map.mpr ⟨.handleDrop .rx, by decide, rfl⟩
  | bufRd _ _ => exact List.mem_map.mpr ⟨.bufRd .rx 0, by decide, rfl⟩
  | bufWr _ _ _ => exact List.mem_map.mpr ⟨.bufWr .rx 0 0, by decide, rfl⟩
  | devSetRxqBase _ => exact List.mem_map.mpr ⟨.devSetRxqBase 0, by decide, rfl⟩
  | devSetTxqBase _ => exact List.mem_map.mpr ⟨.devSetTxqBase 0, by decide, rfl⟩
  | devSetTxq1Base _ => exact List.mem_map.mpr ⟨.devSetTxq1Base 0, by decide, rfl⟩
  | devKick _ => exact List.mem_map.mpr ⟨.devKick 0, by decide, rfl⟩
  | simRxSetOwn _ => exact List.mem_map.mpr ⟨.simRxSetOwn 0, by decide, rfl⟩
  | simTxSetOwn _ => exact List.mem_map.mpr ⟨.simTxSetOwn 0, by decide, rfl⟩
  | layout | rxSetup | rxAvail | rxRecvNext | rxMarkDone | txSetup | txAvail | txSendComplete | dummySetup | drvInit
  | drvReceive | drvTransmit | rxhBegin | drvCaps | drvClassifyIrq | devClearIrq =>
    exact List.mem_map_of_mem (by decide)
  | dmaRxFrame | dmaRxDrop | dmaTxFrame | dmaTxStop => cases h

/-- A row's mask and pattern say what the three fields of its words hold. -/
theorem admits_iff {r : OpcodeRow} {i : Instr} (hr : (r.mask, r.pattern) = i.rowBits) (w : CmdWord) :
    r.admits w = true ↔ argField w &&& i.argMask = 0 ∧ zField w = 0 ∧ opField w = i.opcode := by
  obtain ⟨hmask, hpattern⟩ := Prod.mk.inj hr
  have hmasked : w &&& r.mask = (argField w &&& i.argMask) ++ (zField w ++ opField w) := by
    have hz : zField w &&& 0xFFFFFF#24 = zField w := BitVec.and_allOnes (w := 24) (x := zField w)
    have hop : opField w &&& 0xFF#8 = opField w := BitVec.and_allOnes (w := 8) (x := opField w)
    calc w &&& r.mask
        = (argField w ++ (zField w ++ opField w)) &&& (i.argMask ++ (0xFFFFFF#24 ++ 0xFF#8)) := by
          rw [append_fields, hmask]
      _ = (argField w &&& i.argMask) ++ (zField w ++ opField w) := by
          rw [BitVec.and_append, BitVec.and_append, hz, hop]
  unfold OpcodeRow.admits
  rw [hmasked, hpattern, beq_iff_eq, cmdWord]
  constructor
  · intro h
    refine ⟨?_, ?_, ?_⟩
    · simpa only [argField_append] using congrArg argField h
    · have hz := congrArg zField h
      rwa [zField_append, zField_append] at hz
    · simpa only [opField_append] using congrArg opField h
  · rintro ⟨harg, hz, hop⟩
    rw [harg, hz, hop]
    rfl

/-- Masked bits that are zero, read as a field the mask covers. -/
theorem field_eq_zero_of_masked {arg mask : Word} {start len : Nat} (h : arg &&& mask = 0)
    (hmask : mask.extractLsb' start len = BitVec.allOnes len) : (arg.extractLsb' start len == 0) = true := by
  have hfield := congrArg (·.extractLsb' start len) h
  simp only [BitVec.extractLsb'_and, hmask, BitVec.and_allOnes] at hfield
  rw [hfield, beq_iff_eq]
  exact BitVec.extractLsb'_zero

/-- Which argument bits must be zero is all that the decoder asks of the argument of a code it knows. -/
theorem decodeOp_of_masked (i : Instr) {arg : Word} (h : arg &&& i.argMask = 0) :
    ∃ j, decodeOp i.opcode arg = .ok j ∧ j.isCommand = i.isCommand := by
  have hnoArg : arg &&& 0xFFFFFFFF#32 = arg := BitVec.and_allOnes (w := 32) (x := arg)
  cases i with
  | txGetNextBuffer _ | rxhEnd _ | txhBegin _ | txhEnd _ | devSetRxqBase _ | devSetTxqBase _ | devSetTxq1Base _
  | devKick _ | simRxSetOwn _ | simTxSetOwn _ => exact ⟨_, rfl, rfl⟩
  | layout | rxSetup | rxAvail | rxRecvNext | rxMarkDone | txSetup | txAvail | txSendComplete | dummySetup | drvInit
  | drvReceive | drvTransmit | rxhBegin | drvCaps | drvClassifyIrq | devClearIrq | dmaRxFrame | dmaRxDrop | dmaTxFrame
  | dmaTxStop =>
    obtain rfl : arg = 0 := hnoArg.symm.trans h
    exact ⟨_, rfl, rfl⟩
  | handleDrop which =>
    have hz : (arg.extractLsb' 1 31 == 0) = true := field_eq_zero_of_masked (mask := 0xFFFFFFFE) h (by decide)
    exact ⟨_, whenZero_ok_iff.mpr ⟨hz, rfl⟩, rfl⟩
  | bufRd ring off =>
    have hz : (arg.extractLsb' 16 15 == 0) = true := field_eq_zero_of_masked (mask := 0x7FFF0000) h (by decide)
    exact ⟨_, whenZero_ok_iff.mpr ⟨hz, rfl⟩, rfl⟩
  | bufWr ring off byte =>
    have hz : (arg.extractLsb' 24 7 == 0) = true := field_eq_zero_of_masked (mask := 0x7F000000) h (by decide)
    exact ⟨_, whenZero_ok_iff.mpr ⟨hz, rfl⟩, rfl⟩

theorem arg_and_argMask (i : Instr) : i.arg &&& i.argMask = 0 := by
  cases i with
  | txGetNextBuffer _ | rxhEnd _ | txhBegin _ | txhEnd _ | devSetRxqBase _ | devSetTxqBase _ | devSetTxq1Base _
  | devKick _ | simRxSetOwn _ | simTxSetOwn _ => exact BitVec.and_zero
  | layout | rxSetup | rxAvail | rxRecvNext | rxMarkDone | txSetup | txAvail | txSendComplete | dummySetup | drvInit
  | drvReceive | drvTransmit | rxhBegin | drvCaps | drvClassifyIrq | devClearIrq | dmaRxFrame | dmaRxDrop | dmaTxFrame
  | dmaTxStop => rfl
  | handleDrop which => cases which <;> rfl
  | bufRd ring off =>
    show (ring.bit ++ (0#15 ++ off)) &&& (0#1 ++ (0x7FFF#15 ++ 0#16)) = 0
    rw [BitVec.and_append, BitVec.and_append, BitVec.and_zero, BitVec.and_zero, BitVec.zero_and]
    rfl
  | bufWr ring off byte =>
    show (ring.bit ++ (0#7 ++ (byte ++ off))) &&& (0#1 ++ (0x7F#7 ++ (0#8 ++ 0#16))) = 0
    rw [BitVec.and_append, BitVec.and_append, BitVec.and_append, BitVec.and_zero, BitVec.and_zero, BitVec.and_zero,
      BitVec.zero_and]
    rfl

/-- A word that a program may hold decodes to a command. -/
theorem decode_of_legalWord {c : Config} {w : CmdWord} (h : Machine.LegalWord c w) :
    ∃ i, decode w = .ok i ∧ i.isCommand = true := by
  obtain ⟨r, hr, hadmits, -⟩ := h
  obtain ⟨i, hi, hbits⟩ := exists_commandForm hr
  obtain ⟨harg, hz, hop⟩ := (admits_iff hbits w).mp hadmits
  obtain ⟨j, hj, hcommand⟩ := decodeOp_of_masked i harg
  exact ⟨j, decode_ok_iff.mpr ⟨hz, by rw [hop, hj]⟩, by rw [hcommand, commandForms_isCommand i hi]⟩

/-- A command's word belongs to a command row. -/
theorem exists_row_of_command {i : Instr} (h : i.isCommand = true) :
    ∃ r ∈ softwareRows ++ deviceRows, r.admits (encode i) = true := by
  have hmem : i.rowBits ∈ (softwareRows ++ deviceRows).map fun r => (r.mask, r.pattern) := by
    rw [commandRows_eq]
    exact rowBits_mem_commandForms h
  obtain ⟨r, hr, hbits⟩ := List.mem_map.mp hmem
  exact ⟨r, hr, (admits_iff hbits _).mpr
    ⟨by rw [encode, argField_cmdWord, arg_and_argMask], zField_cmdWord _ _, opField_cmdWord _ _⟩⟩

/-- A command that no program may hold is a harness command without `HARNESS` (30_encoding.md R126). -/
theorem harness_of_not_legalWord {c : Config} {i : Instr} (hi : i.isCommand = true)
    (h : ¬ Machine.LegalWord c (encode i)) :
    c.harness = false ∧ ∃ idx, i = .simRxSetOwn idx ∨ i = .simTxSetOwn idx := by
  obtain ⟨r, hr, hadmits⟩ := exists_row_of_command hi
  have hcode : opField (encode i) = i.opcode := opField_cmdWord _ _
  have hnot : ¬ ((i.opcode = 0xF0 ∨ i.opcode = 0xF1) → c.harness = true) := fun hlegal =>
    h ⟨r, hr, hadmits, by rwa [hcode]⟩
  obtain ⟨hop, hharness⟩ := Classical.not_imp.mp hnot
  refine ⟨Bool.eq_false_iff.mpr hharness, ?_⟩
  cases i with
  | simRxSetOwn idx => exact ⟨idx, .inl rfl⟩
  | simTxSetOwn idx => exact ⟨idx, .inr rfl⟩
  | _ => simp [Instr.opcode] at hop

namespace Machine

theorem decodeCommand?_eq_some_iff {w : CmdWord} {i : Instr} :
    decodeCommand? w = some i ↔ decode w = .ok i ∧ i.isCommand = true := by
  unfold decodeCommand?
  cases h : decode w with
  | error e => simp
  | ok j =>
    by_cases hj : j.isCommand = true
    · simp only [hj, if_true, Option.some.injEq, Except.ok.injEq]
      exact ⟨fun e => ⟨e, e ▸ hj⟩, And.left⟩
    · simp only [hj, Bool.false_eq_true, if_false, Except.ok.injEq]
      exact ⟨nofun, fun ⟨e, hi⟩ => absurd (e ▸ hi) hj⟩

section
variable {s : State} (hf : s.fault = none)
include hf

theorem step_of_command_turn (h : s.nextTurn = .command) : step s = softwareTurn (s.beginTurn .free) := by
  unfold step takeTurn
  rw [hf, h]

theorem step_of_dma_turn {e : DmaEvent} {d : Draw} (h : s.nextTurn = .dma e d) :
    step s = exec e.toInstr (s.beginTurn d) := by
  unfold step takeTurn
  rw [hf, h]

end

section
variable {s : State} {w : CmdWord}

theorem softwareTurn_of_command {i : Instr} (hw : s.fetch = some w) (h : decodeCommand? w = some i) :
    softwareTurn s = exec i s := by
  unfold softwareTurn
  rw [hw]
  simp only [h]

theorem softwareTurn_of_illegal (hf : s.fault = none) (hw : s.fetch = some w) (h : decodeCommand? w = none) :
    softwareTurn s = .next { s with fault := some (.illegalCommand w) } := by
  unfold softwareTurn
  rw [hw]
  simp only [h]
  exact command_raise hf rfl

theorem softwareTurn_of_end (hw : s.fetch = none) : softwareTurn s = .next s := by
  unfold softwareTurn
  rw [hw]

end

end Machine

end Sys2Proof
end

section
/-! PROOFS. The encoding (30_encoding.md): the worked words, the two round trips, the illegal words. -/

open Sys2Proof Sys2Proof.Machine

/-- Settles O1: closed words, both ways. -/
theorem workedCommandWords : Obligations.WorkedCommandWords := by
  unfold Obligations.WorkedCommandWords
  decide

/-- Settles O2: a word's fields are read back, and its code and argument decode to the instruction. -/
theorem decodeOfEncode : Obligations.DecodeOfEncode := decode_encode

/-- Settles O3: the decoder finds the code and the argument of its instruction, and a word with a zero `Z` field is
made of those two. -/
theorem encodeOfDecode : Obligations.EncodeOfDecode := fun _ _ => encode_of_decode

/-- Settles O4: a word that is not legal decodes to no command, and the step raises the fault, or to a harness command
without `HARNESS`, whose own first check raises it. -/
theorem illegalWordRaises : Obligations.IllegalWordRaises := by
  refine ⟨?raises, fun c w => decode_of_legalWord, ?reserved⟩
  case raises =>
    intro s w hf hturn hw hillegal
    rw [step_of_command_turn hf hturn]
    have hfetch : (s.beginTurn .free).fetch = some w := hw
    cases hd : decodeCommand? w with
    | none => exact softwareTurn_of_illegal hf hfetch hd
    | some i =>
      rw [softwareTurn_of_command hfetch hd]
      obtain ⟨hdec, hcommand⟩ := decodeCommand?_eq_some_iff.mp hd
      obtain rfl := encode_of_decode hdec
      obtain ⟨hharness, idx, rfl | rfl⟩ := harness_of_not_legalWord hcommand hillegal
      · exact exec_of_raise (i := .simRxSetOwn idx) hf (simRxSetOwnOp_of_illegal (by simp [hharness]))
      · exact exec_of_raise (i := .simTxSetOwn idx) hf (simTxSetOwnOp_of_illegal (by simp [hharness]))
  case reserved =>
    rintro c w hreserved ⟨r, hr, hadmits, -⟩
    obtain ⟨i, hi, hbits⟩ := exists_commandForm hr
    obtain ⟨-, hz, hop⟩ := (admits_iff hbits w).mp hadmits
    rw [hop] at hreserved
    exact commandForms_not_reserved i hi (by simpa only [hz, ne_eq, not_true_eq_false, or_false] using hreserved)

end

section
/-! PROOFS. What every step and every instruction keeps (10_state.md R30, R34, R63; 45_dma_engine.md R294;
60_exceptions.md R330). -/

open Sys2Proof Sys2Proof.Machine

/-- Settles O5: at a software turn the step is the turn's, and the word at `pc` decodes to the command it runs. -/
theorem stepRunsDecodedCommand : Obligations.StepRunsDecodedCommand := by
  intro s w i hf hturn hw hdec hcommand
  rw [step_of_command_turn hf hturn]
  exact softwareTurn_of_command hw (decodeCommand?_eq_some_iff.mpr ⟨hdec, hcommand⟩)

/-- Settles O6: each rule's guard is read off its `ok_iff` lemma, where the guard fails the rule leaves the state. -/
theorem stepRunsDmaEvent : Obligations.StepRunsDmaEvent := by
  refine ⟨fun s e d hf hturn => step_of_dma_turn hf hturn, fun s hf hturn hend => ?programEnd,
    fun s hf hoff => ?rxDisabled, fun s hf hoff => ?txStopped, fun s h L w hf hon hh hL hsize hw => ?rxHead,
    fun s t L w hf hon ht hL hsize hw => ?txTail⟩
  case programEnd =>
    rw [step_of_command_turn hf hturn]
    exact softwareTurn_of_end (List.getElem?_eq_none hend)
  case rxDisabled =>
    exact ⟨exec_of_ok (i := .dmaRxFrame) hf (dmaRxFrameOp_ok_iff.mpr (.inl ⟨hoff, rfl⟩)),
      exec_of_ok (i := .dmaRxDrop) hf (dmaRxDropOp_ok_iff.mpr ⟨rfl, by simp [hoff]⟩)⟩
  case txStopped =>
    exact ⟨exec_of_ok (i := .dmaTxFrame) hf (dmaTxFrameOp_ok_iff.mpr (.inl ⟨hoff, rfl⟩)),
      exec_of_ok (i := .dmaTxStop) hf (dmaTxStopOp_ok_iff.mpr (.inl ⟨hoff, rfl⟩))⟩
  case rxHead =>
    have hhead := rxHead_of_written hh hL hsize hw
    exact ⟨fun hown => exec_of_ok (i := .dmaRxFrame) hf
        (dmaRxFrameOp_ok_iff.mpr (.inr ⟨hon, h, L, w, hhead, .inl ⟨hown, rfl⟩⟩)),
      fun _ => exec_of_ok (i := .dmaRxDrop) hf (dmaRxDropOp_ok_iff.mpr ⟨rfl, fun _ => ⟨_, hhead⟩⟩)⟩
  case txTail =>
    have htail := txTail_of_written ht hL hsize hw
    refine ⟨fun hused => exec_of_ok (i := .dmaTxFrame) hf
        (dmaTxFrameOp_ok_iff.mpr (.inr ⟨hon, t, L, w, htail, .inl ⟨hused, rfl⟩⟩)), fun hbusy => ?_⟩
    have hnot : txUsed w ≠ true := Bool.eq_false_iff.mp hbusy
    exact exec_of_ok (i := .dmaTxStop) hf (dmaTxStopOp_ok_iff.mpr (.inr ⟨hon, t, L, w, htail, (if_neg hnot).symm⟩))

/-- Settles O7: `exec` answers an effect, which leaves the record unset, or the state with the record set; and a step
is `exec` from the begun turn, or an illegal word's fault. -/
theorem faultIsTerminal : Obligations.FaultIsTerminal := by
  have hexec : ∀ (i : Instr) (s t : State) (r : FaultRecord), exec i s = .next t → t.fault = some r →
      t = { s with fault := some r } := by
    intro i s t r h hr
    rcases exec_cases h with ⟨hnone, -⟩ | ⟨r', -, rfl⟩
    · rw [hnone] at hr; cases hr
    · cases hr; rfl
  refine ⟨fun i s t r h hr => ?raised, fun s r hr => ⟨?stepHalts, fun i => ?execHalts⟩, fun s t r h hr => ?step⟩
  case raised =>
    obtain rfl := hexec i s t r h hr
    exact ⟨rfl, rfl⟩
  case stepHalts => unfold step; rw [hr]
  case execHalts => rw [exec_eq_settle]; unfold settle; rw [hr]
  case step =>
    obtain ⟨hf, ⟨-, -, rfl⟩ | ⟨-, -, i, -, h⟩ | ⟨-, -, r', rfl⟩ | ⟨e, d, -, h⟩⟩ := step_cases h
    · rw [State.beginTurn_fault, hf] at hr; cases hr
    · obtain rfl := hexec _ _ _ _ h hr
      exact ⟨rfl, rfl⟩
    · cases hr
      exact ⟨rfl, rfl⟩
    · obtain rfl := hexec _ _ _ _ h hr
      exact ⟨rfl, rfl⟩

/-- Settles O8: no rule writes `pc`, and what follows a completed rule moves it for a command only. -/
theorem pcAdvancesByOne : Obligations.PcAdvancesByOne := by
  have hexec : ∀ (i : Instr) (s t : State), exec i s = .next t → t.fault = none →
      t.pc = if i.isCommand then s.pc + 1 else s.pc := by
    intro i s t h hf
    rcases exec_cases h with ⟨-, u, hu, rfl⟩ | ⟨r, -, rfl⟩
    · rw [← (bodyOf_fixed hu).pc]
      unfold Instr.done
      split <;> rfl
    · cases hf
  refine ⟨fun c => rfl, hexec, fun s t h hf => ?_⟩
  obtain ⟨-, ⟨-, hend, rfl⟩ | ⟨hturn, hlt, i, hi, h⟩ | ⟨-, -, r, rfl⟩ | ⟨e, d, hturn, h⟩⟩ := step_cases h
  · exact (if_neg fun ⟨_, hlt⟩ => Nat.not_lt.mpr hend hlt).symm
  · rw [if_pos ⟨hturn, hlt⟩, hexec _ _ _ h hf, if_pos hi]; rfl
  · cases hf
  · have hdma : e.toInstr.isCommand = false := by cases e <;> rfl
    rw [if_neg (by simp [hturn]), hexec _ _ _ h hf, hdma]; rfl

/-- Settles O9: no rule writes the configuration or the program, and what comes before and after a rule writes
neither. -/
theorem configurationIsFixed : Obligations.ConfigurationIsFixed := by
  refine ⟨fun i s t h => ?instr, fun s t h => ?step⟩
  case instr =>
    rcases exec_cases h with ⟨-, u, hu, rfl⟩ | ⟨r, -, rfl⟩
    · have hdone : (Instr.done i u).cfg = u.cfg ∧ (Instr.done i u).program = u.program := by
        unfold Instr.done
        split <;> exact ⟨rfl, rfl⟩
      exact ⟨hdone.1.trans (bodyOf_fixed hu).cfg, hdone.2.trans (bodyOf_fixed hu).program⟩
    · exact ⟨rfl, rfl⟩
  case step =>
    refine step_keeps (P := fun u => u.cfg = s.cfg ∧ u.program = s.program) (fun _ _ _ _ _ _ hu => hu) ?_ h ⟨rfl, rfl⟩
    rintro i u v hv ⟨hcfg, hprogram⟩
    exact ⟨(bodyOf_fixed hv).cfg.trans hcfg, (bodyOf_fixed hv).program.trans hprogram⟩

/-- Settles O10: the reset table row by row, and an empty memory that reads as unwritten. -/
theorem resetTable : Obligations.ResetTable := by
  rintro c s rfl
  exact ⟨rfl, rfl, rfl, fun _ => rfl, rfl, rfl, rfl, rfl, rfl, rfl, rfl, rfl, rfl, rfl, rfl, rfl, rfl, rfl, rfl, rfl,
    rfl, rfl, rfl, rfl, rfl, rfl, rfl, rfl, rfl, rfl, rfl⟩

end

section
/-! SUPPORT. What a rule can do to the rings, said once: every rule is a sequence of the effects below, so what each
effect keeps every step keeps (00_scope.md R18). -/

namespace Sys2Proof.Machine

/-- `t` is `s` but for the handles and the fields that no rule of the rings or of the DMA agent reads. -/
def SameRings (s t : State) : Prop :=
  t = { s with
    res := t.res, st := t.st, hrx := t.hrx, htx := t.htx, rxComplete := t.rxComplete, txComplete := t.txComplete,
    oversizeMarker := t.oversizeMarker }

theorem SameRings.refl (s : State) : SameRings s s := rfl

/-- One effect on the rings: a rule that writes a field or a byte that some rule of the rings or of the DMA agent
reads, as the rule that completes. -/
inductive RingEffect (s t : State) : Prop
  | other (h : SameRings s t)
  | layout (h : layoutOp s = .ok t)
  | rxSetup (h : rxSetupOp s = .ok t)
  | txSetup (h : txSetupOp s = .ok t)
  | dummySetup (h : dummySetupOp s = .ok t)
  | setRxq (pa : Word) (h : devSetRxqBaseOp pa s = .ok t)
  | setTxq (pa : Word) (h : devSetTxqBaseOp pa s = .ok t)
  | setTxq1 (pa : Word) (h : devSetTxq1BaseOp pa s = .ok t)
  | borrow (h : rxRecvNextOp s = .ok t)
  | release (h : rxMarkDoneOp s = .ok t)
  | claim (len : Nat) (h : txGetNextBufferOp len s = .ok t)
  | commit (a : Word) (h : txSendCompleteOp s = .ok (t, a))
  | kick (pa : Word) (h : devKickOp pa s = .ok t)
  | bufWr (ring : Ring) (off : BitVec 16) (byte : Byte) (h : bufWrOp ring off byte s = .ok t)
  | simRx (idx : Word) (h : simRxSetOwnOp idx s = .ok t)
  | simTx (idx : Word) (h : simTxSetOwnOp idx s = .ok t)
  | storeFrame (i : Nat) (L : Layout) (w : Word) (hon : s.rxEnabled = true) (hw : rxHead s = .ok (i, L, w))
      (hown : rxOwn w = false) (h : dmaStoreFrame i L w s = .ok t)
  | sendFrame (i : Nat) (L : Layout) (w : Word) (hon : s.txRunning = true) (hw : txTail s = .ok (i, L, w))
      (hused : txUsed w = false) (h : dmaSendFrame i L w s = .ok t)
  | stop (h : dmaTxStopOp s = .ok t)

/-- No effect writes the fields that no rule writes. -/
theorem RingEffect.fixed {s t : State} (h : RingEffect s t) : SameFixed s t := by
  cases h with
  | other h => rw [h]; constructor <;> rfl
  | layout h => exact layoutOp_fixed h
  | rxSetup h => exact rxSetupOp_fixed h
  | txSetup h => exact txSetupOp_fixed h
  | dummySetup h => exact dummySetupOp_fixed h
  | setRxq pa h => exact devSetRxqBaseOp_fixed h
  | setTxq pa h => exact devSetTxqBaseOp_fixed h
  | setTxq1 pa h => exact devSetTxq1BaseOp_fixed h
  | borrow h => exact rxRecvNextOp_fixed h
  | release h => exact rxMarkDoneOp_fixed h
  | claim len h => exact txGetNextBufferOp_fixed h
  | commit a h => exact txSendCompleteOp_fixed h
  | kick pa h => exact bodyOf_fixed (i := .devKick pa) h
  | bufWr ring off byte h => exact bodyOf_fixed (i := .bufWr ring off byte) h
  | simRx idx h => exact bodyOf_fixed (i := .simRxSetOwn idx) h
  | simTx idx h => exact bodyOf_fixed (i := .simTxSetOwn idx) h
  | storeFrame i L w hon hw hown h =>
    exact bodyOf_fixed (i := .dmaRxFrame) (dmaRxFrameOp_ok_iff.mpr (.inr ⟨hon, i, L, w, hw, .inr ⟨hown, h⟩⟩))
  | sendFrame i L w hon hw hused h =>
    exact bodyOf_fixed (i := .dmaTxFrame) (dmaTxFrameOp_ok_iff.mpr (.inr ⟨hon, i, L, w, hw, .inr ⟨hused, h⟩⟩))
  | stop h => exact bodyOf_fixed (i := .dmaTxStop) h

/-- Some effects one after another. -/
abbrev RingEffects : State → State → Prop := Relation.ReflTransGen RingEffect

theorem RingEffect.effects {s t : State} (h : RingEffect s t) : RingEffects s t := .single h

theorem SameRings.effects {s t : State} (h : SameRings s t) : RingEffects s t := .single (.other h)

theorem drvInitOp_effects {s t : State} (h : drvInitOp s = .ok t) : RingEffects s t := by
  obtain ⟨s1, s2, s3, s4, L, s5, s6, s7, h1, h2, h3, h4, -, h5, h6, h7, rfl⟩ := drvInitOp_ok_iff.mp h
  have hsetup : RingEffects s s4 := (((RingEffect.layout h1).effects.tail (.rxSetup h2)).tail (.txSetup h3)).tail
    (.dummySetup h4)
  have hbases : RingEffects s4 s7 := ((RingEffect.setRxq _ h5).effects.tail (.setTxq _ h6)).tail (.setTxq1 _ h7)
  exact (hsetup.trans hbases).tail (.other rfl)

theorem dmaRxFrameOp_effects {s t : State} (h : dmaRxFrameOp s = .ok t) : RingEffects s t := by
  obtain ⟨-, rfl⟩ | ⟨hon, i, L, w, hw, ⟨-, rfl⟩ | ⟨hown, h⟩⟩ := dmaRxFrameOp_ok_iff.mp h
  · exact .refl
  · exact .refl
  · exact (RingEffect.storeFrame i L w hon hw hown h).effects

theorem dmaTxFrameOp_effects {s t : State} (h : dmaTxFrameOp s = .ok t) : RingEffects s t := by
  obtain ⟨-, rfl⟩ | ⟨hon, i, L, w, hw, ⟨-, rfl⟩ | ⟨hused, h⟩⟩ := dmaTxFrameOp_ok_iff.mp h
  · exact .refl
  · exact .refl
  · exact (RingEffect.sendFrame i L w hon hw hused h).effects

/-- The two rules that hand out handles write nothing else that a ring rule reads. -/
theorem drvReceiveOp_sameRings {s t : State} (h : drvReceiveOp s = .ok t) : SameRings s t := by
  obtain ⟨-, _, _, _, _, _, _, -, -, rfl⟩ := drvReceiveOp_ok_iff.mp h
  split <;> rfl

theorem drvTransmitOp_sameRings {s t : State} (h : drvTransmitOp s = .ok t) : SameRings s t := by
  obtain ⟨-, _, _, _, -, rfl⟩ := drvTransmitOp_ok_iff.mp h
  split <;> rfl

/-- Every rule is a sequence of effects. -/
theorem bodyOf_effects {i : Instr} {s t : State} (h : bodyOf i s = .ok t) : RingEffects s t := by
  cases i with
  | layout => exact (RingEffect.layout (exclusive_ok_iff.mp h).2.2).effects
  | rxSetup => exact (RingEffect.rxSetup (exclusive_ok_iff.mp h).2.2).effects
  | rxRecvNext => exact (RingEffect.borrow (exclusive_ok_iff.mp h).2.2).effects
  | rxMarkDone => exact (RingEffect.release (exclusive_ok_iff.mp h).2.2).effects
  | txSetup => exact (RingEffect.txSetup (exclusive_ok_iff.mp h).2.2).effects
  | txGetNextBuffer len => exact (RingEffect.claim _ (exclusive_ok_iff.mp h).2.2).effects
  | txSendComplete =>
    obtain ⟨a, hsend⟩ := txCommitOp_ok_iff.mp (exclusive_ok_iff.mp h).2.2
    exact (RingEffect.commit a hsend).effects
  | dummySetup => exact (RingEffect.dummySetup (exclusive_ok_iff.mp h).2.2).effects
  | drvInit => exact drvInitOp_effects (exclusive_ok_iff.mp h).2.2
  | devSetRxqBase pa => exact (RingEffect.setRxq pa (exclusive_ok_iff.mp h).2.2).effects
  | devSetTxqBase pa => exact (RingEffect.setTxq pa (exclusive_ok_iff.mp h).2.2).effects
  | devSetTxq1Base pa => exact (RingEffect.setTxq1 pa (exclusive_ok_iff.mp h).2.2).effects
  | drvReceive => exact (drvReceiveOp_sameRings (exclusive_ok_iff.mp h).2.2).effects
  | drvTransmit => exact (drvTransmitOp_sameRings (exclusive_ok_iff.mp h).2.2).effects
  | rxAvail => obtain ⟨_, _, _, -, rfl⟩ := rxAvailOp_ok_iff.mp h; exact SameRings.effects rfl
  | txAvail => obtain ⟨-, _, _, _, -, rfl⟩ := txAvailOp_ok_iff.mp h; exact SameRings.effects rfl
  | drvCaps => cases h; exact SameRings.effects rfl
  | drvClassifyIrq => cases h; exact SameRings.effects rfl
  | devClearIrq => cases h; exact SameRings.effects rfl
  | bufRd ring off => obtain ⟨_, _, -, -, -, rfl⟩ := bufRdOp_ok_iff.mp h; exact SameRings.effects rfl
  | handleDrop which =>
    cases which
    · obtain ⟨-, rfl⟩ := handleDropOp_rx_ok_iff.mp h; exact SameRings.effects rfl
    · obtain ⟨-, rfl⟩ := handleDropOp_tx_ok_iff.mp h; exact SameRings.effects rfl
  | rxhBegin =>
    obtain ⟨-, -, u, hu, rfl⟩ := rxhBeginOp_ok_iff.mp h
    exact (RingEffect.borrow hu).effects.tail (.other rfl)
  | rxhEnd r =>
    obtain ⟨-, u, hu, rfl⟩ := rxhEndOp_ok_iff.mp h
    exact (RingEffect.release hu).effects.tail (.other rfl)
  | txhBegin len =>
    obtain ⟨-, -, ⟨-, u, hu, rfl⟩ | ⟨-, -, u, hu, rfl⟩ | ⟨-, -, rfl⟩⟩ := txhBeginOp_ok_iff.mp h
    · exact (RingEffect.claim _ hu).effects.tail (.other rfl)
    · have hmark : SameRings s { s with oversizeMarker := true } := rfl
      exact (hmark.effects.tail (.claim _ hu)).tail (.other rfl)
    · exact SameRings.effects rfl
  | txhEnd r =>
    obtain ⟨-, u, a, v, hu, hv, rfl⟩ := txhEndOp_ok_iff.mp h
    exact ((RingEffect.commit a hu).effects.tail (.kick a hv)).tail (.other rfl)
  | devKick pa => exact (RingEffect.kick pa h).effects
  | bufWr ring off byte => exact (RingEffect.bufWr ring off byte h).effects
  | simRxSetOwn idx => exact (RingEffect.simRx idx h).effects
  | simTxSetOwn idx => exact (RingEffect.simTx idx h).effects
  | dmaRxFrame => exact dmaRxFrameOp_effects h
  | dmaRxDrop => obtain ⟨rfl, -⟩ := dmaRxDropOp_ok_iff.mp h; exact .refl
  | dmaTxFrame => exact dmaTxFrameOp_effects h
  | dmaTxStop => exact (RingEffect.stop h).effects

/-- What every effect keeps, some effects one after another keep. -/
theorem RingEffects.keeps {P : State → Prop} (hP : ∀ s t, RingEffect s t → P s → P t) {s t : State}
    (h : RingEffects s t) (hs : P s) : P t := by
  induction h with
  | refl => exact hs
  | tail _ he ih => exact hP _ _ he ih

/-- What every effect keeps, and `pc`, the fault record and the environment's choices do not matter to, every step
keeps. -/
theorem step_keeps_of_effect {P : State → Prop}
    (hframe : ∀ (s : State) (pc : Nat) (f : Option FaultRecord) (a : List Turn) (n : Nat) (d : Draw), P s →
      P { s with pc := pc, fault := f, agenda := a, turn := n, draw := d })
    (hP : ∀ s t, RingEffect s t → P s → P t) {s t : State} (h : step s = .next t) (hs : P s) : P t :=
  step_keeps hframe (fun _ _ _ hu hs => (bodyOf_effects hu).keeps hP hs) h hs

end Sys2Proof.Machine
end

section
/-! SUPPORT. The setup order (70_reset_and_hazards.md R371) under each effect. -/

namespace Sys2Proof.Machine

variable {s t : State}

theorem SetupInv.of_sameRings (hs : SetupInv s) (h : SameRings s t) : SetupInv t := by
  rw [h]
  exact { hs with }

/-- The setup order does not speak of `pc`, the fault record or the environment's choices. -/
theorem SetupInv.frame (hs : SetupInv s) {pc : Nat} {f : Option FaultRecord} {a : List Turn} {n : Nat} {d : Draw} :
    SetupInv { s with pc := pc, fault := f, agenda := a, turn := n, draw := d } := { hs with }

/-- A store inside the Region. -/
theorem SetupInv.store (hs : SetupInv s) {off : Nat} {bs : List Byte} (h : off + bs.length ≤ s.cfg.size) :
    SetupInv { s with mem := s.mem.store off bs } :=
  { hs with
    memWf := Memory.store_wf hs.memWf off bs
    memInRegion := Memory.store_bounded hs.memInRegion h }

theorem SetupInv.writeWord (hs : SetupInv s) {off : Nat} {w : Word} (h : off + 4 ≤ s.cfg.size) :
    SetupInv { s with mem := s.mem.writeWord off w } := hs.store h

/-- The ring has a slot once its table may be set up. -/
theorem SetupInv.n_pos (hs : SetupInv s) (h : s.layoutSet = true) : 0 < s.cfg.n := (hs.layoutIs h).2.1.1

theorem layoutOp_setupInv (hs : SetupInv s) (h : layoutOp s = .ok t) : SetupInv t := by
  obtain ⟨-, haccepts, rfl⟩ := layoutOp_ok_iff.mp h
  exact { hs with
    layoutUnset := nofun
    layoutIs := fun _ => ⟨rfl, haccepts⟩
    rxNeedsLayout := fun _ => rfl
    txNeedsLayout := fun _ => rfl
    dmyNeedsLayout := fun _ => rfl }

theorem rxSetupOp_setupInv (hs : SetupInv s) (h : rxSetupOp s = .ok t) : SetupInv t := by
  obtain ⟨hlayout, -, L, -, hsize, rfl⟩ := rxSetupOp_ok_iff.mp h
  have hs' := hs.store (off := L.rxdOff 0) (bs := rxTable s.cfg L) (by rwa [rxTable_length])
  exact { hs' with
    rxNeedsLayout := fun _ => hlayout
    rxCursorLegal := fun _ => ⟨0, hs.n_pos hlayout, rfl⟩
    rxSet := fun hset => ⟨rfl, (hs.rxSet hset).2⟩
    borrowAtCursor := nofun }

theorem txSetupOp_setupInv (hs : SetupInv s) (h : txSetupOp s = .ok t) : SetupInv t := by
  obtain ⟨hlayout, -, L, -, hsize, rfl⟩ := txSetupOp_ok_iff.mp h
  have hs' := hs.store (off := L.txd0Off 0) (bs := txTable s.cfg L) (by rwa [txTable_length])
  exact { hs' with
    txNeedsLayout := fun _ => hlayout
    txCursorLegal := fun _ => ⟨0, hs.n_pos hlayout, rfl⟩
    txSet := fun hset => ⟨rfl, (hs.txSet hset).2⟩
    claimAtCursor := nofun }

theorem dummySetupOp_setupInv (hs : SetupInv s) (h : dummySetupOp s = .ok t) : SetupInv t := by
  obtain ⟨hlayout, -, L, -, hsize, rfl⟩ := dummySetupOp_ok_iff.mp h
  have haddr : L.dmy0Off + 4 ≤ s.cfg.size := Nat.le_trans (Nat.add_le_add_left (by decide) _) hsize
  have hs' := (hs.writeWord (w := 0) haddr).writeWord (off := L.dmy1Off) (w := dummyStatus) hsize
  exact { hs' with
    dmyNeedsLayout := fun _ => hlayout
    txq1Set := fun hset => ⟨rfl, (hs.txq1Set hset).2⟩ }

/-- The address that a `DEV_SET_*` command accepts is the base its register is to hold. -/
theorem eq_paWord_of_toNat_eq {pa : Word} {a : Nat} (h : pa.toNat = a) : pa = paWord a := by
  rw [← h, paWord, BitVec.ofNat_toNat, BitVec.setWidth_eq]

theorem devSetRxqBaseOp_setupInv {pa : Word} (hs : SetupInv s) (h : devSetRxqBaseOp pa s = .ok t) : SetupInv t := by
  obtain ⟨-, hready, L, hL, hpa, rfl⟩ := devSetRxqBaseOp_ok_iff.mp h
  obtain ⟨rfl, -⟩ := hs.layoutFor_eq hL
  exact { hs with
    rxUnset := nofun
    rxSet := fun _ => ⟨hready, rfl, congrArg some (eq_paWord_of_toNat_eq hpa), 0, hs.n_pos (hs.rxNeedsLayout hready),
      rfl⟩ }

theorem devSetTxqBaseOp_setupInv {pa : Word} (hs : SetupInv s) (h : devSetTxqBaseOp pa s = .ok t) : SetupInv t := by
  obtain ⟨-, hready, L, hL, hpa, rfl⟩ := devSetTxqBaseOp_ok_iff.mp h
  obtain ⟨rfl, -⟩ := hs.layoutFor_eq hL
  exact { hs with
    txUnset := nofun
    txSet := fun _ => ⟨hready, congrArg some (eq_paWord_of_toNat_eq hpa), 0, hs.n_pos (hs.txNeedsLayout hready),
      rfl⟩ }

theorem devSetTxq1BaseOp_setupInv {pa : Word} (hs : SetupInv s) (h : devSetTxq1BaseOp pa s = .ok t) :
    SetupInv t := by
  obtain ⟨-, hready, L, hL, hpa, rfl⟩ := devSetTxq1BaseOp_ok_iff.mp h
  obtain ⟨rfl, -⟩ := hs.layoutFor_eq hL
  exact { hs with
    txq1Unset := nofun
    txq1Set := fun _ => ⟨hready, congrArg some (eq_paWord_of_toNat_eq hpa)⟩ }

theorem rxRecvNextOp_setupInv (hs : SetupInv s) (h : rxRecvNextOp s = .ok t) : SetupInv t := by
  obtain ⟨-, c, L, w, hw, -, rfl⟩ := rxRecvNextOp_ok_iff.mp h
  obtain ⟨hready, hc, -⟩ := rxCursorWord_ok_iff.mp hw
  exact { hs with borrowAtCursor := fun i hi => ⟨hready, hc.trans hi⟩ }

/-- A cursor moves to a slot of its ring. -/
theorem cursorNext_lt {n : Nat} (h : 0 < n) (i : Nat) : cursorNext n i < n := Nat.mod_lt _ h

theorem rxMarkDoneOp_setupInv (hs : SetupInv s) (h : rxMarkDoneOp s = .ok t) : SetupInv t := by
  obtain ⟨c, L, w, hw, -, rfl⟩ := rxMarkDoneOp_ok_iff.mp h
  obtain ⟨hready, -, -, hsize, -⟩ := rxCursorWord_ok_iff.mp hw
  have hs' := hs.writeWord (w := rxReleased w) hsize
  exact { hs' with
    rxCursorLegal := fun _ => ⟨_, cursorNext_lt (hs.n_pos (hs.rxNeedsLayout hready)) c, rfl⟩
    borrowAtCursor := nofun }

theorem txGetNextBufferOp_setupInv {len : Nat} (hs : SetupInv s) (h : txGetNextBufferOp len s = .ok t) :
    SetupInv t := by
  obtain ⟨hready, -, hlen, c, L, w, hw, -, rfl⟩ := txGetNextBufferOp_ok_iff.mp h
  obtain ⟨hc, -, hsize, -⟩ := txCursorWord_ok_iff.mp hw
  have hs' := hs.writeWord (w := txClaimed w len) hsize
  refine { hs' with claimAtCursor := ?_ }
  rintro k hk
  obtain rfl : { slot := c, len := len } = k := Option.some.inj hk
  exact ⟨hready, hc, hlen⟩

theorem txSendCompleteOp_setupInv {a : Word} (hs : SetupInv s) (h : txSendCompleteOp s = .ok (t, a)) :
    SetupInv t := by
  obtain ⟨hready, c, L, -, -, -, -, rfl⟩ := txSendCompleteOp_ok_iff.mp h
  exact { hs with
    txCursorLegal := fun _ => ⟨_, cursorNext_lt (hs.n_pos (hs.txNeedsLayout hready)) c, rfl⟩
    claimAtCursor := nofun }

theorem devKickOp_setupInv {pa : Word} (hs : SetupInv s) (h : devKickOp pa s = .ok t) : SetupInv t := by
  obtain ⟨hset, L, -, -, rfl⟩ := devKickOp_ok_iff.mp h
  exact { hs with txUnset := fun hunset => absurd (hset.symm.trans hunset) nofun }

theorem bufWrOp_setupInv {ring : Ring} {off : BitVec 16} {byte : Byte} (hs : SetupInv s)
    (h : bufWrOp ring off byte s = .ok t) : SetupInv t := by
  obtain ⟨a, -, hsize, rfl⟩ := bufWrOp_ok_iff.mp h
  exact (hs.store (bs := [byte]) hsize).of_sameRings rfl

theorem simRxSetOwnOp_setupInv {idx : Word} (hs : SetupInv s) (h : simRxSetOwnOp idx s = .ok t) : SetupInv t := by
  obtain ⟨-, -, -, L, w, -, hsize, -, rfl⟩ := simRxSetOwnOp_ok_iff.mp h
  exact hs.writeWord hsize

theorem simTxSetOwnOp_setupInv {idx : Word} (hs : SetupInv s) (h : simTxSetOwnOp idx s = .ok t) : SetupInv t := by
  obtain ⟨-, -, -, L, w, -, hsize, -, rfl⟩ := simTxSetOwnOp_ok_iff.mp h
  exact hs.writeWord hsize

/-- The DMA agent's next position is a slot of its ring. -/
theorem dmaNext?_lt {n i j : Nat} {e : Bool} (hi : i < n) (h : dmaNext? n i e = some j) : j < n := by
  unfold dmaNext? at h
  split at h
  · cases h; omega
  · split at h
    · cases h; assumption
    · cases h

/-- Reception is enabled only once the base register is written. -/
theorem SetupInv.rxqSet_of_enabled (hs : SetupInv s) (h : s.rxEnabled = true) : s.rxqSet = true := by
  by_contra hunset
  exact absurd (h.symm.trans (hs.rxUnset (Bool.eq_false_iff.mpr hunset)).2.2) nofun

/-- The transmit engine runs only once the base register is written. -/
theorem SetupInv.txqSet_of_running (hs : SetupInv s) (h : s.txRunning = true) : s.txqSet = true := by
  by_contra hunset
  exact absurd (h.symm.trans (hs.txUnset (Bool.eq_false_iff.mpr hunset)).2.2) nofun

theorem SetupInv.rxHead_lt (hs : SetupInv s) {i : Nat} (hon : s.rxEnabled = true) (h : s.hwRxIdx = some i) :
    i < s.cfg.n := by
  obtain ⟨-, -, -, j, hj, hidx⟩ := hs.rxSet (hs.rxqSet_of_enabled hon)
  obtain rfl : j = i := Option.some.inj (hidx.symm.trans h)
  exact hj

theorem SetupInv.txTail_lt (hs : SetupInv s) {i : Nat} (hon : s.txRunning = true) (h : s.hwTxIdx = some i) :
    i < s.cfg.n := by
  obtain ⟨-, -, j, hj, hidx⟩ := hs.txSet (hs.txqSet_of_running hon)
  obtain rfl : j = i := Option.some.inj (hidx.symm.trans h)
  exact hj

theorem dmaStoreFrame_setupInv {i : Nat} {L : Layout} {w : Word} (hs : SetupInv s) (hon : s.rxEnabled = true)
    (hw : rxHead s = .ok (i, L, w)) (h : dmaStoreFrame i L w s = .ok t) : SetupInv t := by
  have hi := hs.rxHead_lt hon (rxHead_ok_iff.mp hw).1
  obtain ⟨j, hbase, hend, hj, hsize, rfl⟩ := dmaStoreFrame_ok_iff.mp h
  have hframe : (rxAddr w).toNat - s.cfg.paBase + s.frameDraw.length ≤ s.cfg.size := by
    rw [State.frameDraw_length]; omega
  have hs' := (hs.store hframe).writeWord (w := rxFilled w) hsize
  have hset := hs.rxqSet_of_enabled hon
  obtain ⟨hready, -, hregister, -⟩ := hs.rxSet hset
  exact { hs' with
    rxUnset := fun hunset => absurd (hset.symm.trans hunset) nofun
    rxSet := fun _ => ⟨hready, hon, hregister, j, dmaNext?_lt hi hj, rfl⟩ }

theorem dmaSendFrame_setupInv {i : Nat} {L : Layout} {w : Word} (hs : SetupInv s) (hon : s.txRunning = true)
    (hw : txTail s = .ok (i, L, w)) (h : dmaSendFrame i L w s = .ok t) : SetupInv t := by
  have hi := hs.txTail_lt hon (txTail_ok_iff.mp hw).1
  obtain ⟨-, a, j, -, -, -, hj, hsize, rfl⟩ := dmaSendFrame_ok_iff.mp h
  have hs' := hs.writeWord (w := txSent w s.statDraw) hsize
  have hset := hs.txqSet_of_running hon
  obtain ⟨hready, hregister, -⟩ := hs.txSet hset
  exact { hs' with
    txUnset := fun hunset => absurd (hset.symm.trans hunset) nofun
    txSet := fun _ => ⟨hready, hregister, j, dmaNext?_lt hi hj, rfl⟩ }

theorem dmaTxStopOp_setupInv (hs : SetupInv s) (h : dmaTxStopOp s = .ok t) : SetupInv t := by
  obtain ⟨-, rfl⟩ | ⟨-, i, L, w, -, rfl⟩ := dmaTxStopOp_ok_iff.mp h
  · exact hs
  · split
    · exact { hs with txUnset := fun hunset => ⟨(hs.txUnset hunset).1, (hs.txUnset hunset).2.1, rfl⟩ }
    · exact hs

theorem RingEffect.setupInv (h : RingEffect s t) (hs : SetupInv s) : SetupInv t := by
  cases h with
  | other h => exact hs.of_sameRings h
  | layout h => exact layoutOp_setupInv hs h
  | rxSetup h => exact rxSetupOp_setupInv hs h
  | txSetup h => exact txSetupOp_setupInv hs h
  | dummySetup h => exact dummySetupOp_setupInv hs h
  | setRxq pa h => exact devSetRxqBaseOp_setupInv hs h
  | setTxq pa h => exact devSetTxqBaseOp_setupInv hs h
  | setTxq1 pa h => exact devSetTxq1BaseOp_setupInv hs h
  | borrow h => exact rxRecvNextOp_setupInv hs h
  | release h => exact rxMarkDoneOp_setupInv hs h
  | claim len h => exact txGetNextBufferOp_setupInv hs h
  | commit a h => exact txSendCompleteOp_setupInv hs h
  | kick pa h => exact devKickOp_setupInv hs h
  | bufWr ring off byte h => exact bufWrOp_setupInv hs h
  | simRx idx h => exact simRxSetOwnOp_setupInv hs h
  | simTx idx h => exact simTxSetOwnOp_setupInv hs h
  | storeFrame i L w hon hw hown h => exact dmaStoreFrame_setupInv hs hon hw h
  | sendFrame i L w hon hw hused h => exact dmaSendFrame_setupInv hs hon hw h
  | stop h => exact dmaTxStopOp_setupInv hs h

end Sys2Proof.Machine
end

section
/-! PROOFS. Every step keeps the setup order (70_reset_and_hazards.md R371). -/

open Sys2Proof Sys2Proof.Machine

/-- Settles O49: every effect keeps the setup order, so every step does. -/
theorem setupInvariantKept : Obligations.SetupInvariantKept := fun _ _ hs h =>
  step_keeps_of_effect (fun _ _ _ _ _ _ hu => hu.frame) (fun _ _ he hu => he.setupInv hu) h hs

end

section
/-! SUPPORT. The descriptor words as setup wrote them (10_state.md R57, R59; 43_dummy_tx.md R231): what each word is to
hold, and what the rules that rewrite one find and leave there. -/

namespace Sys2Proof.Machine

/-- What the descriptor word of RX slot `i` holds beside its ownership bit (10_state.md R57). -/
def RxWordOk (c : Config) (i : Nat) (w : Word) : Prop :=
  rxAddr w = paWord ((layoutFor c).rxbPa c.mtu i) ∧ rxWrap w = (i + 1 == c.n)

/-- What the status word of TX slot `i` holds (10_state.md R59, 45_dma_engine.md R306). -/
def TxWordOk (c : Config) (i : Nat) (w : Word) : Prop :=
  txWrap w = (i + 1 == c.n) ∧ (txUsed w = true ∨ (txLast w = true ∧ txLen w ≤ c.mtu))

theorem rxEntryOk_iff {s : State} {i : Nat} :
    rxEntryOk s i = true ↔ ∃ w, s.mem.readWord ((layoutFor s.cfg).rxdOff i) = some w ∧ RxWordOk s.cfg i w := by
  simp only [rxEntryOk, State.wordHas_iff, Bool.and_eq_true, beq_iff_eq, RxWordOk]

theorem txEntryOk_iff {s : State} {i : Nat} :
    txEntryOk s i = true ↔
      s.mem.readWord ((layoutFor s.cfg).txd0Off i) = some (paWord ((layoutFor s.cfg).txbPa s.cfg.mtu i)) ∧
      ∃ w, s.mem.readWord ((layoutFor s.cfg).txd1Off i) = some w ∧ TxWordOk s.cfg i w := by
  simp only [txEntryOk, State.wordHas_iff, Bool.and_eq_true, Bool.or_eq_true, beq_iff_eq, decide_eq_true_eq, TxWordOk,
    exists_eq_right]

theorem RxWordOk.released {c : Config} {i : Nat} {w : Word} (h : RxWordOk c i w) : RxWordOk c i (rxReleased w) := by
  simpa only [RxWordOk, rxAddr_rxReleased, rxWrap_rxReleased] using h

theorem RxWordOk.filled {c : Config} {i : Nat} {w : Word} (h : RxWordOk c i w) : RxWordOk c i (rxFilled w) := by
  simpa only [RxWordOk, rxAddr_rxFilled, rxWrap_rxFilled] using h

theorem TxWordOk.claimed {c : Config} {i len : Nat} {w : Word} (h : TxWordOk c i w) (hlen : len ≤ c.mtu)
    (hmtu : c.mtu ≤ 16380) : TxWordOk c i (txClaimed w len) := by
  have hfits : len < 2 ^ 14 := by omega
  exact ⟨(txWrap_txClaimed hfits).trans h.1, .inr ⟨txLast_txClaimed w len, by rwa [txLen_txClaimed hfits]⟩⟩

theorem TxWordOk.sent {c : Config} {i : Nat} {w : Word} (h : TxWordOk c i w) (stat : BitVec 14) :
    TxWordOk c i (txSent w stat) :=
  ⟨(txWrap_txSent w stat).trans h.1, .inl (txUsed_txSent w stat)⟩

theorem TxWordOk.returned {c : Config} {i : Nat} {w : Word} (h : TxWordOk c i w) : TxWordOk c i (txReturned w) :=
  ⟨(txWrap_txReturned w).trans h.1, .inl (txUsed_txReturned w)⟩

theorem ite_not_some_eq_none_iff {α : Type} {b : Bool} {x : α} {o : Option α} :
    (if !b then some x else o) = none ↔ b = true ∧ o = none := by
  cases b <;> simp

/-- No sub-region is misaligned where each is aligned as 40_layout.md R154 asks. -/
theorem firstMisaligned_eq_none_iff {L : Layout} :
    L.firstMisaligned = none ↔ L.rxd.alignedTo Config.RXD_ALIGN = true ∧ L.rxb.alignedTo Config.BUF_ALIGN = true ∧
      L.txd.alignedTo Config.TXD_ALIGN = true ∧ L.txb.alignedTo Config.BUF_ALIGN = true ∧
      L.dmy.alignedTo Config.TXD_ALIGN = true := by
  simp only [Layout.firstMisaligned, ite_not_some_eq_none_iff, and_true]

/-- A multiple of 4 has room for the two flag bits of an RX word. -/
theorem and_rxAddrMask_of_dvd {a : Nat} (h : a % 4 = 0) : paWord a &&& RX_ADDR_MASK = paWord a := by
  have hmask : ∀ i < 32, RX_ADDR_MASK.getLsbD i = decide (2 ≤ i) := by decide
  apply BitVec.eq_of_getLsbD_eq
  intro i hi
  rw [BitVec.getLsbD_and, hmask i hi, paWord, BitVec.getLsbD_ofNat]
  by_cases hhigh : 2 ≤ i
  · simp [hhigh]
  · have hlow : a.testBit i = false := by
      rw [Nat.testBit_eq_decide_div_mod_eq, decide_eq_false_iff_not]
      obtain rfl | rfl : i = 0 ∨ i = 1 := by omega
      · rw [Nat.pow_zero]; omega
      · rw [Nat.pow_one]; omega
    simp [hlow]

/-- An accepted layout puts every RX buffer on a multiple of 4, so that its address fits above the two flag bits. -/
theorem rxAddr_of_accepted {c : Config} (h : layoutAccepts c) (i : Nat) :
    paWord ((layoutFor c).rxbPa c.mtu i) &&& RX_ADDR_MASK = paWord ((layoutFor c).rxbPa c.mtu i) := by
  obtain ⟨⟨-, hmtu, -⟩, -, haligned, -⟩ := h
  have hpool := (firstMisaligned_eq_none_iff.mp haligned).2.1
  have hbase : (layoutFor c).rxb.pa % 4 = 0 := (of_decide_eq_true hpool).2.1
  refine and_rxAddrMask_of_dvd ?_
  rw [Layout.rxbPa, Nat.add_mod, hbase, Nat.mul_mod, hmtu, Nat.mul_zero]

theorem rxEntry_ok {c : Config} (h : layoutAccepts c) (i : Nat) : RxWordOk c i (rxEntry c (layoutFor c) i) := by
  refine ⟨?_, rxWrap_rxSetupWord _ _⟩
  rw [rxEntry, rxAddr_rxSetupWord, rxAddr_of_accepted h i]

theorem txSetupStatus_ok (c : Config) (i : Nat) : TxWordOk c i (txSetupStatus (i + 1 == c.n)) :=
  ⟨txWrap_txSetupStatus _, .inl (txUsed_txSetupStatus _)⟩

/-- The end-of-ring bit that setup writes takes the DMA agent round the ring as software's cursor goes. -/
theorem dmaNext?_of_lastBit {n i : Nat} (hi : i < n) : dmaNext? n i (i + 1 == n) = some (cursorNext n i) := by
  unfold dmaNext? cursorNext
  by_cases hlast : i + 1 = n
  · rw [if_pos (beq_iff_eq.mpr hlast), hlast, Nat.mod_self]
  · rw [if_neg (by simpa using hlast), if_pos (by omega), Nat.mod_eq_of_lt (by omega)]

section
variable {s : State}

/-- A ring that is set up has its layout, and the layout was accepted. -/
theorem SetupInv.rx_layout (hs : SetupInv s) (h : s.rxState = .ready) :
    s.layout = some (layoutFor s.cfg) ∧ layoutAccepts s.cfg := hs.layoutIs (hs.rxNeedsLayout h)

theorem SetupInv.tx_layout (hs : SetupInv s) (h : s.txState = .ready) :
    s.layout = some (layoutFor s.cfg) ∧ layoutAccepts s.cfg := hs.layoutIs (hs.txNeedsLayout h)

theorem SetupInv.rxCursor_lt (hs : SetupInv s) {c : Nat} (hr : s.rxState = .ready) (h : s.rxCursor = some c) :
    c < s.cfg.n := by
  obtain ⟨d, hd, hcursor⟩ := hs.rxCursorLegal hr
  obtain rfl : d = c := Option.some.inj (hcursor.symm.trans h)
  exact hd

theorem SetupInv.txCursor_lt (hs : SetupInv s) {c : Nat} (hr : s.txState = .ready) (h : s.txCursor = some c) :
    c < s.cfg.n := by
  obtain ⟨d, hd, hcursor⟩ := hs.txCursorLegal hr
  obtain rfl : d = c := Option.some.inj (hcursor.symm.trans h)
  exact hd

theorem RingWordsInv.rxWord (hw : RingWordsInv s) (hr : s.rxState = .ready) {i : Nat} (hi : i < s.cfg.n) :
    ∃ w, s.mem.readWord ((layoutFor s.cfg).rxdOff i) = some w ∧ RxWordOk s.cfg i w :=
  rxEntryOk_iff.mp (hw.rxWords hr i hi)

theorem RingWordsInv.txAddr (hw : RingWordsInv s) (hr : s.txState = .ready) {i : Nat} (hi : i < s.cfg.n) :
    s.mem.readWord ((layoutFor s.cfg).txd0Off i) = some (paWord ((layoutFor s.cfg).txbPa s.cfg.mtu i)) :=
  (txEntryOk_iff.mp (hw.txWords hr i hi)).1

theorem RingWordsInv.txWord (hw : RingWordsInv s) (hr : s.txState = .ready) {i : Nat} (hi : i < s.cfg.n) :
    ∃ w, s.mem.readWord ((layoutFor s.cfg).txd1Off i) = some w ∧ TxWordOk s.cfg i w :=
  (txEntryOk_iff.mp (hw.txWords hr i hi)).2

/-- The cursor's word where the setup order and the words are kept. -/
theorem rxCursorWord_of_inv (hs : SetupInv s) (hw : RingWordsInv s) (hr : s.rxState = .ready) (i : Instr) :
    ∃ c w, c < s.cfg.n ∧ s.mem.readWord ((layoutFor s.cfg).rxdOff c) = some w ∧ RxWordOk s.cfg c w ∧
      s.rxCursor = some c ∧ rxCursorWord i s = .ok (c, layoutFor s.cfg, w) := by
  obtain ⟨hL, haccepts⟩ := hs.rx_layout hr
  obtain ⟨c, hlt, hc⟩ := hs.rxCursorLegal hr
  obtain ⟨w, hread, hok⟩ := hw.rxWord hr hlt
  exact ⟨c, w, hlt, hread, hok, hc, rxCursorWord_ok_iff.mpr ⟨hr, hc, hL, rxd_inside haccepts hlt, hread⟩⟩

theorem txCursorWord_of_inv (hs : SetupInv s) (hw : RingWordsInv s) (hr : s.txState = .ready) :
    ∃ c w, c < s.cfg.n ∧ s.mem.readWord ((layoutFor s.cfg).txd1Off c) = some w ∧ TxWordOk s.cfg c w ∧
      s.txCursor = some c ∧ txCursorWord s = .ok (c, layoutFor s.cfg, w) := by
  obtain ⟨hL, haccepts⟩ := hs.tx_layout hr
  obtain ⟨c, hlt, hc⟩ := hs.txCursorLegal hr
  obtain ⟨w, hread, hok⟩ := hw.txWord hr hlt
  exact ⟨c, w, hlt, hread, hok, hc, txCursorWord_ok_iff.mpr ⟨hc, hL, txd1_inside haccepts hlt, hread⟩⟩

/-- The head's word where reception is enabled. -/
theorem rxHead_of_inv (hs : SetupInv s) (hw : RingWordsInv s) (hon : s.rxEnabled = true) :
    ∃ i w, i < s.cfg.n ∧ s.rxState = .ready ∧ s.mem.readWord ((layoutFor s.cfg).rxdOff i) = some w ∧
      RxWordOk s.cfg i w ∧ s.hwRxIdx = some i ∧ rxHead s = .ok (i, layoutFor s.cfg, w) := by
  obtain ⟨hr, -, -, i, hlt, hi⟩ := hs.rxSet (hs.rxqSet_of_enabled hon)
  obtain ⟨hL, haccepts⟩ := hs.rx_layout hr
  obtain ⟨w, hread, hok⟩ := hw.rxWord hr hlt
  exact ⟨i, w, hlt, hr, hread, hok, hi, rxHead_of_written hi hL (rxd_inside haccepts hlt) hread⟩

/-- The tail's word where the engine runs. -/
theorem txTail_of_inv (hs : SetupInv s) (hw : RingWordsInv s) (hon : s.txRunning = true) :
    ∃ i w, i < s.cfg.n ∧ s.txState = .ready ∧ s.mem.readWord ((layoutFor s.cfg).txd1Off i) = some w ∧
      TxWordOk s.cfg i w ∧ s.hwTxIdx = some i ∧ txTail s = .ok (i, layoutFor s.cfg, w) := by
  obtain ⟨hr, -, i, hlt, hi⟩ := hs.txSet (hs.txqSet_of_running hon)
  obtain ⟨hL, haccepts⟩ := hs.tx_layout hr
  obtain ⟨w, hread, hok⟩ := hw.txWord hr hlt
  exact ⟨i, w, hlt, hr, hread, hok, hi, txTail_of_written hi hL (txd1_inside haccepts hlt) hread⟩

end

/-- What `DMA_RX_FRAME` leaves at head `i` whose word is `w`, where the words are as setup wrote them. -/
def State.frameStored (s : State) (i : Nat) (w : Word) : State :=
  { s with
    mem := (s.mem.store ((layoutFor s.cfg).rxbOff s.cfg.mtu i) s.frameDraw).writeWord ((layoutFor s.cfg).rxdOff i)
      (rxFilled w)
    hwRxIdx := some (cursorNext s.cfg.n i), rxComplete := true }

/-- What `DMA_TX_FRAME` leaves at tail `i` whose status word is `w`, where the words are as setup wrote them. -/
def State.frameSent (s : State) (i : Nat) (w : Word) : State :=
  { s with
    mem := s.mem.writeWord ((layoutFor s.cfg).txd1Off i) (txSent w s.statDraw)
    wireTx := s.wireTx ++ [s.frameAt ((layoutFor s.cfg).txbOff s.cfg.mtu i) (txLen w)]
    hwTxIdx := some (cursorNext s.cfg.n i), txComplete := true }

/-- `DMA_RX_FRAME` completes where the word is as setup wrote it (45_dma_engine.md R295, R296). -/
theorem dmaStoreFrame_of_ok {s : State} (haccepts : layoutAccepts s.cfg) {i : Nat} (hi : i < s.cfg.n) {w : Word}
    (hok : RxWordOk s.cfg i w) : dmaStoreFrame i (layoutFor s.cfg) w s = .ok (s.frameStored i w) := by
  obtain ⟨haddr, hwrap⟩ := hok
  obtain ⟨hfits, hpa⟩ := rxbPa_of_accepted haccepts hi
  have hoff : (rxAddr w).toNat = s.cfg.paBase + (layoutFor s.cfg).rxbOff s.cfg.mtu i := by rw [haddr, hfits, hpa]
  have hend : (layoutFor s.cfg).rxbOff s.cfg.mtu i + s.cfg.mtu ≤ s.cfg.size := by
    have hsize := haccepts.2.1
    have hslot := slot_end_le (m := s.cfg.mtu) hi
    rw [layoutFor_stop] at hsize
    rw [layoutFor_rxbOff]
    omega
  refine dmaStoreFrame_ok_iff.mpr ⟨cursorNext s.cfg.n i, by omega, by omega, ?_, rxd_inside haccepts hi, ?_⟩
  · rw [hwrap, dmaNext?_of_lastBit hi]
  · rw [hoff, Nat.add_sub_cancel_left]; rfl

/-- `DMA_TX_FRAME` completes where the words are as setup wrote them and the tail is not claimed (45_dma_engine.md
R295, R296, R305). -/
theorem dmaSendFrame_of_ok {s : State} (haccepts : layoutAccepts s.cfg) {i : Nat} (hi : i < s.cfg.n) {w : Word}
    (haddr : s.mem.readWord ((layoutFor s.cfg).txd0Off i) = some (paWord ((layoutFor s.cfg).txbPa s.cfg.mtu i)))
    (hok : TxWordOk s.cfg i w) (hused : txUsed w = false) (hclaim : s.txClaim.map Claim.slot ≠ some i) :
    dmaSendFrame i (layoutFor s.cfg) w s = .ok (s.frameSent i w) := by
  obtain ⟨hwrap, hused' | ⟨-, hlen⟩⟩ := hok
  · exact absurd (hused'.symm.trans hused) nofun
  obtain ⟨hfits, hpa⟩ := txbPa_of_accepted haccepts hi
  have hoff : (paWord ((layoutFor s.cfg).txbPa s.cfg.mtu i)).toNat =
      s.cfg.paBase + (layoutFor s.cfg).txbOff s.cfg.mtu i := by rw [hfits, hpa]
  have hend : (layoutFor s.cfg).txbOff s.cfg.mtu i + s.cfg.mtu ≤ s.cfg.size := by
    have hsize := haccepts.2.1
    have hslot := slot_end_le (m := s.cfg.mtu) hi
    rw [layoutFor_stop] at hsize
    rw [layoutFor_txbOff]
    omega
  refine dmaSendFrame_ok_iff.mpr ⟨hclaim, _, cursorNext s.cfg.n i,
    State.dmaWord_of_written (txd0_inside haccepts hi) haddr, by omega, by omega, ?_, txd1_inside haccepts hi, ?_⟩
  · rw [hwrap, dmaNext?_of_lastBit hi]
  · rw [hoff, Nat.add_sub_cancel_left]; rfl

section
variable {s t : State} (hs : SetupInv s) (hw : RingWordsInv s)

include hs hw

/-- `DMA_RX_FRAME` at a head that is the hardware's. -/
theorem storeFrame_inv {i : Nat} {L : Layout} {w : Word} (hon : s.rxEnabled = true) (hhead : rxHead s = .ok (i, L, w))
    (h : dmaStoreFrame i L w s = .ok t) :
    i < s.cfg.n ∧ s.rxState = .ready ∧ s.mem.readWord ((layoutFor s.cfg).rxdOff i) = some w ∧ RxWordOk s.cfg i w ∧
      s.hwRxIdx = some i ∧ t = s.frameStored i w := by
  obtain ⟨j, v, hlt, hr, hread, hok, hj, hhead'⟩ := rxHead_of_inv hs hw hon
  rw [hhead'] at hhead
  cases hhead
  rw [dmaStoreFrame_of_ok (hs.rx_layout hr).2 hlt hok] at h
  cases h
  exact ⟨hlt, hr, hread, hok, hj, rfl⟩

/-- `DMA_TX_FRAME` at a tail that is the hardware's. -/
theorem sendFrame_inv {i : Nat} {L : Layout} {w : Word} (hon : s.txRunning = true) (htail : txTail s = .ok (i, L, w))
    (hused : txUsed w = false) (h : dmaSendFrame i L w s = .ok t) :
    i < s.cfg.n ∧ s.txState = .ready ∧ s.mem.readWord ((layoutFor s.cfg).txd1Off i) = some w ∧ TxWordOk s.cfg i w ∧
      s.hwTxIdx = some i ∧ s.txClaim.map Claim.slot ≠ some i ∧ t = s.frameSent i w := by
  obtain ⟨j, v, hlt, hr, hread, hok, hj, htail'⟩ := txTail_of_inv hs hw hon
  rw [htail'] at htail
  cases htail
  have hclaim := (dmaSendFrame_ok_iff.mp h).1
  rw [dmaSendFrame_of_ok (hs.tx_layout hr).2 hlt (hw.txAddr hr hlt) hok hused hclaim] at h
  cases h
  exact ⟨hlt, hr, hread, hok, hj, hclaim, rfl⟩

/-- `RX_MARK_DONE` at the cursor's slot. -/
theorem release_inv (h : rxMarkDoneOp s = .ok t) :
    ∃ c w, c < s.cfg.n ∧ s.rxState = .ready ∧ s.rxCursor = some c ∧
      s.mem.readWord ((layoutFor s.cfg).rxdOff c) = some w ∧ RxWordOk s.cfg c w ∧ rxOwn w = true ∧
      t = { s with
        mem := s.mem.writeWord ((layoutFor s.cfg).rxdOff c) (rxReleased w), rxBorrow := none,
        rxCursor := some (cursorNext s.cfg.n c), st := some .ok } := by
  obtain ⟨c, L, w, hword, hown, rfl⟩ := rxMarkDoneOp_ok_iff.mp h
  have hr := (rxCursorWord_ok_iff.mp hword).1
  obtain ⟨d, v, hlt, hread, hok, hc, hword'⟩ := rxCursorWord_of_inv hs hw hr .rxMarkDone
  rw [hword'] at hword
  cases hword
  exact ⟨c, w, hlt, hr, hc, hread, hok, hown, rfl⟩

/-- `TX_GET_NEXT_BUFFER` at the cursor's slot. -/
theorem claim_inv {len : Nat} (h : txGetNextBufferOp len s = .ok t) :
    ∃ c w, c < s.cfg.n ∧ s.txState = .ready ∧ s.txClaim = none ∧ len ≤ s.cfg.mtu ∧ s.txCursor = some c ∧
      s.mem.readWord ((layoutFor s.cfg).txd1Off c) = some w ∧ TxWordOk s.cfg c w ∧ txUsed w = true ∧
      t = { s with
        mem := s.mem.writeWord ((layoutFor s.cfg).txd1Off c) (txClaimed w len),
        txClaim := some { slot := c, len := len }, res := some (vaWord ((layoutFor s.cfg).txbVa s.cfg.mtu c)),
        st := some .ok } := by
  obtain ⟨hr, hnone, hlen, c, L, w, hword, hused, rfl⟩ := txGetNextBufferOp_ok_iff.mp h
  obtain ⟨d, v, hlt, hread, hok, hc, hword'⟩ := txCursorWord_of_inv hs hw hr
  rw [hword'] at hword
  cases hword
  exact ⟨c, w, hlt, hr, hnone, hlen, hc, hread, hok, hused, rfl⟩

omit hw in
/-- `BUF_WR` changes no descriptor word: the open slice is a slot of its pool. -/
theorem bufWr_inv {ring : Ring} {off : BitVec 16} {byte : Byte} (h : bufWrOp ring off byte s = .ok t) :
    WordsKept s.cfg s.mem t.mem (fun _ => False) (fun _ => False) ∧ t = { s with mem := t.mem, st := some .ok } := by
  obtain ⟨a, hslice, -, rfl⟩ := bufWrOp_ok_iff.mp h
  refine ⟨?_, rfl⟩
  obtain ⟨i, L, hslot, hL, rfl⟩ := sliceByte_ok_iff.mp hslice
  obtain ⟨rfl, -⟩ := hs.layoutFor_eq hL
  cases ring with
  | rx =>
    obtain ⟨hborrow, hoff⟩ := sliceSlot?_rx_eq_some_iff.mp hslot
    obtain ⟨hr, hc⟩ := hs.borrowAtCursor i hborrow
    exact wordsKept_rxb (hs.rxCursor_lt hr hc) hoff
  | tx =>
    obtain ⟨k, hclaim, hoff, rfl⟩ := sliceSlot?_tx_eq_some_iff.mp hslot
    obtain ⟨hr, hc, hlen⟩ := hs.claimAtCursor k hclaim
    exact wordsKept_txb (hs.txCursor_lt hr hc) (Nat.le_trans hoff hlen)

/-- `SIM_RX_SET_OWN` at the slot it names. -/
theorem simRx_inv {idx : Word} (h : simRxSetOwnOp idx s = .ok t) :
    ∃ w, s.cfg.harness = true ∧ idx.toNat < s.cfg.n ∧ s.rxState = .ready ∧ RxWordOk s.cfg idx.toNat w ∧
      t = { s with mem := s.mem.writeWord ((layoutFor s.cfg).rxdOff idx.toNat) (rxFilled w) } := by
  obtain ⟨hharness, hlt, hr, L, w, hL, -, hread, rfl⟩ := simRxSetOwnOp_ok_iff.mp h
  obtain ⟨rfl, -⟩ := hs.layoutFor_eq hL
  obtain ⟨v, hread', hok⟩ := hw.rxWord hr hlt
  obtain rfl : v = w := Option.some.inj (hread'.symm.trans hread)
  exact ⟨v, hharness, hlt, hr, hok, rfl⟩

/-- `SIM_TX_SET_OWN` at the slot it names. -/
theorem simTx_inv {idx : Word} (h : simTxSetOwnOp idx s = .ok t) :
    ∃ w, s.cfg.harness = true ∧ idx.toNat < s.cfg.n ∧ s.txState = .ready ∧ TxWordOk s.cfg idx.toNat w ∧
      t = { s with mem := s.mem.writeWord ((layoutFor s.cfg).txd1Off idx.toNat) (txReturned w) } := by
  obtain ⟨hharness, hlt, hr, L, w, hL, -, hread, rfl⟩ := simTxSetOwnOp_ok_iff.mp h
  obtain ⟨rfl, -⟩ := hs.layoutFor_eq hL
  obtain ⟨v, hread', hok⟩ := hw.txWord hr hlt
  obtain rfl : v = w := Option.some.inj (hread'.symm.trans hread)
  exact ⟨v, hharness, hlt, hr, hok, rfl⟩

end

end Sys2Proof.Machine
end

section
/-! SUPPORT. The descriptor words under each effect (10_state.md R57, R59; 43_dummy_tx.md R231). -/

namespace Sys2Proof.Machine

variable {s t : State}

theorem RingWordsInv.of_sameRings (hw : RingWordsInv s) (h : SameRings s t) : RingWordsInv t := by
  rw [h]
  exact { hw with }

/-- The words do not speak of `pc`, the fault record or the environment's choices. -/
theorem RingWordsInv.frame (hw : RingWordsInv s) {pc : Nat} {f : Option FaultRecord} {a : List Turn} {n : Nat}
    {d : Draw} : RingWordsInv { s with pc := pc, fault := f, agenda := a, turn := n, draw := d } := { hw with }

/-- Every table is as set up in `t` as in `s`. -/
structure SameTables (s t : State) : Prop where
  cfg : t.cfg = s.cfg
  rx : t.rxState = s.rxState
  tx : t.txState = s.txState
  dmy : t.dmyState = s.dmyState

/-- The words are kept where those that change are again as setup wrote them. -/
theorem RingWordsInv.of_wordsKept {A B : Nat → Prop} (hw : RingWordsInv s) (hsame : SameTables s t)
    (k : WordsKept s.cfg s.mem t.mem A B)
    (hA : ∀ i < s.cfg.n, A i → ∃ w, t.mem.readWord ((layoutFor s.cfg).rxdOff i) = some w ∧ RxWordOk s.cfg i w)
    (hB : ∀ i < s.cfg.n, B i → ∃ w, t.mem.readWord ((layoutFor s.cfg).txd1Off i) = some w ∧ TxWordOk s.cfg i w) :
    RingWordsInv t := by
  obtain ⟨hcfg, hrx, htx, hdmy⟩ := hsame
  refine ⟨fun hr i hi => ?rx, fun hr i hi => ?tx, fun hr => ?dmy⟩
  case rx =>
    rw [rxEntryOk_iff, hcfg]
    rw [hcfg] at hi
    by_cases hAi : A i
    · exact hA i hi hAi
    · rw [k.rx i hi hAi]
      exact hw.rxWord (hrx.symm.trans hr) hi
  case tx =>
    rw [txEntryOk_iff, hcfg, k.txAddr i (hcfg ▸ hi)]
    rw [hcfg] at hi
    refine ⟨hw.txAddr (htx.symm.trans hr) hi, ?_⟩
    by_cases hBi : B i
    · exact hB i hi hBi
    · rw [k.tx i hi hBi]
      exact hw.txWord (htx.symm.trans hr) hi
  case dmy =>
    rw [hcfg, k.dmy0, k.dmy1]
    exact hw.dmyWords (hdmy.symm.trans hr)

/-- One RX word is rewritten. -/
theorem RingWordsInv.writeRx (hw : RingWordsInv s) {i : Nat} (hi : i < s.cfg.n) {w : Word} (hok : RxWordOk s.cfg i w)
    (hsame : SameTables s t) (hmem : t.mem = s.mem.writeWord ((layoutFor s.cfg).rxdOff i) w) : RingWordsInv t := by
  refine hw.of_wordsKept hsame (hmem ▸ wordsKept_rxd hi) ?_ nofun
  rintro j - rfl
  exact ⟨w, by rw [hmem, Memory.readWord_writeWord], hok⟩

/-- One TX status word is rewritten. -/
theorem RingWordsInv.writeTx (hw : RingWordsInv s) {i : Nat} (hi : i < s.cfg.n) {w : Word} (hok : TxWordOk s.cfg i w)
    (hsame : SameTables s t) (hmem : t.mem = s.mem.writeWord ((layoutFor s.cfg).txd1Off i) w) : RingWordsInv t := by
  refine hw.of_wordsKept hsame (hmem ▸ wordsKept_txd1 hi) nofun ?_
  rintro j - rfl
  exact ⟨w, by rw [hmem, Memory.readWord_writeWord], hok⟩

/-- No byte is stored. -/
theorem RingWordsInv.of_sameMem (hw : RingWordsInv s) (hsame : SameTables s t) (hmem : t.mem = s.mem) :
    RingWordsInv t :=
  hw.of_wordsKept (A := fun _ => False) (B := fun _ => False) hsame (hmem ▸ WordsKept.refl _ _ _ _) nofun nofun

/-- The RX table, stored as one block, leaves the other tables alone. -/
theorem wordsKept_rxTable (c : Config) (m : Memory) :
    WordsKept c m (m.store ((layoutFor c).rxdOff 0) (rxTable c (layoutFor c))) (fun _ => True) (fun _ => False) := by
  rw [layoutFor_rxdOff]
  apply wordsKept_store <;> intros <;> simp only [rxTable_length, Config.RXD, not_true_eq_false] at * <;> omega

/-- A store from the TX table on leaves the RX words alone. -/
theorem readWord_rxd_of_store {c : Config} {m : Memory} {off : Nat} {bs : List Byte}
    (h : 4 * c.n + c.mtu * c.n ≤ off) {i : Nat} (hi : i < c.n) :
    (m.store off bs).readWord ((layoutFor c).rxdOff i) = m.readWord ((layoutFor c).rxdOff i) := by
  rw [layoutFor_rxdOff]
  exact Memory.readWord_store_outside (by omega)

/-- A store from the dummy record on leaves the TX words alone. -/
theorem readWord_txd_of_store {c : Config} {m : Memory} {off : Nat} {bs : List Byte}
    (h : 12 * c.n + 2 * (c.mtu * c.n) ≤ off) {i : Nat} (hi : i < c.n) :
    (m.store off bs).readWord ((layoutFor c).txd0Off i) = m.readWord ((layoutFor c).txd0Off i) ∧
      (m.store off bs).readWord ((layoutFor c).txd1Off i) = m.readWord ((layoutFor c).txd1Off i) := by
  rw [layoutFor_txd0Off, layoutFor_txd1Off]
  exact ⟨Memory.readWord_store_outside (by omega), Memory.readWord_store_outside (by omega)⟩

/-- The TX table leaves the RX words alone. -/
theorem readWord_rxd_of_txTable {c : Config} {m : Memory} {i : Nat} (hi : i < c.n) :
    (m.store ((layoutFor c).txd0Off 0) (txTable c (layoutFor c))).readWord ((layoutFor c).rxdOff i) =
      m.readWord ((layoutFor c).rxdOff i) :=
  readWord_rxd_of_store (by rw [layoutFor_txd0Off]; omega) hi

/-- The TX table leaves the dummy record alone. -/
theorem readWord_dmy_of_txTable {c : Config} {m : Memory} {a : Nat} (ha : (layoutFor c).dmy0Off ≤ a) :
    (m.store ((layoutFor c).txd0Off 0) (txTable c (layoutFor c))).readWord a = m.readWord a := by
  rw [layoutFor_dmy0Off] at ha
  refine Memory.readWord_store_outside (.inr ?_)
  rw [layoutFor_txd0Off, txTable_length, Config.TXD]
  omega

/-- The dummy record leaves the RX words alone. -/
theorem readWord_rxd_of_writeDummy {c : Config} {m : Memory} {i : Nat} (hi : i < c.n) :
    (m.writeDummy (layoutFor c)).readWord ((layoutFor c).rxdOff i) = m.readWord ((layoutFor c).rxdOff i) :=
  (readWord_rxd_of_store (by rw [layoutFor_dmy1Off]; omega) hi).trans
    (readWord_rxd_of_store (by rw [layoutFor_dmy0Off]; omega) hi)

/-- The dummy record leaves the TX words alone. -/
theorem readWord_txd_of_writeDummy {c : Config} {m : Memory} {i : Nat} (hi : i < c.n) :
    (m.writeDummy (layoutFor c)).readWord ((layoutFor c).txd0Off i) = m.readWord ((layoutFor c).txd0Off i) ∧
      (m.writeDummy (layoutFor c)).readWord ((layoutFor c).txd1Off i) = m.readWord ((layoutFor c).txd1Off i) := by
  have haddr := readWord_txd_of_store (m := m) (bs := wordBytes 0) (layoutFor_dmy0Off c).ge hi
  have hstatus := readWord_txd_of_store (m := m.writeWord (layoutFor c).dmy0Off 0) (bs := wordBytes dummyStatus)
    (off := (layoutFor c).dmy1Off) (by rw [layoutFor_dmy1Off]; omega) hi
  exact ⟨hstatus.1.trans haddr.1, hstatus.2.trans haddr.2⟩

theorem rxSetupOp_ringWords (hs : SetupInv s) (hw : RingWordsInv s) (h : rxSetupOp s = .ok t) : RingWordsInv t := by
  obtain ⟨hlayout, -, L, hL, -, rfl⟩ := rxSetupOp_ok_iff.mp h
  obtain ⟨rfl, haccepts⟩ := hs.layoutFor_eq hL
  have k := wordsKept_rxTable s.cfg s.mem
  refine ⟨fun _ i hi => rxEntryOk_iff.mpr ⟨_, readWord_store_rxTable _ _ _ hi, rxEntry_ok haccepts i⟩,
    fun hr i hi => txEntryOk_iff.mpr ?tx, fun hr => ?dmy⟩
  case tx => exact ⟨(k.txAddr i hi).trans (hw.txAddr hr hi), by rw [k.tx i hi not_false]; exact hw.txWord hr hi⟩
  case dmy => exact ⟨k.dmy0.trans (hw.dmyWords hr).1, k.dmy1.trans (hw.dmyWords hr).2⟩

theorem txSetupOp_ringWords (hs : SetupInv s) (hw : RingWordsInv s) (h : txSetupOp s = .ok t) : RingWordsInv t := by
  obtain ⟨hlayout, -, L, hL, -, rfl⟩ := txSetupOp_ok_iff.mp h
  obtain ⟨rfl, haccepts⟩ := hs.layoutFor_eq hL
  refine ⟨fun hr i hi => rxEntryOk_iff.mpr ?rx,
    fun _ i hi => txEntryOk_iff.mpr ⟨readWord_store_txTable_addr _ _ _ hi, _, readWord_store_txTable_status _ _ _ hi,
      txSetupStatus_ok _ i⟩, fun hr => ?dmy⟩
  case rx => rw [readWord_rxd_of_txTable hi]; exact hw.rxWord hr hi
  case dmy =>
    exact ⟨(readWord_dmy_of_txTable (Nat.le_refl _)).trans (hw.dmyWords hr).1,
      (readWord_dmy_of_txTable (Nat.le_add_right _ 4)).trans (hw.dmyWords hr).2⟩

theorem dummySetupOp_ringWords (hs : SetupInv s) (hw : RingWordsInv s) (h : dummySetupOp s = .ok t) :
    RingWordsInv t := by
  obtain ⟨hlayout, -, L, hL, -, rfl⟩ := dummySetupOp_ok_iff.mp h
  obtain ⟨rfl, -⟩ := hs.layoutFor_eq hL
  refine ⟨fun hr i hi => rxEntryOk_iff.mpr ?rx, fun hr i hi => txEntryOk_iff.mpr ?tx,
    fun _ => ⟨readWord_writeDummy_addr s.mem _, readWord_writeDummy_status s.mem _⟩⟩
  case rx => rw [← Memory.writeDummy, readWord_rxd_of_writeDummy hi]; exact hw.rxWord hr hi
  case tx =>
    obtain ⟨haddr, hstatus⟩ := readWord_txd_of_writeDummy (m := s.mem) hi
    rw [← Memory.writeDummy, haddr, hstatus]
    exact ⟨hw.txAddr hr hi, hw.txWord hr hi⟩

/-- A frame stored in its slot's buffer, with its word rewritten. -/
theorem wordsKept_frameStored {i : Nat} (hi : i < s.cfg.n) (w : Word) :
    WordsKept s.cfg s.mem (s.frameStored i w).mem (· = i) (fun _ => False) := by
  have hframe : WordsKept s.cfg s.mem (s.mem.store ((layoutFor s.cfg).rxbOff s.cfg.mtu i) s.frameDraw) (fun _ => False)
      (fun _ => False) := wordsKept_rxb (off := 0) hi (by rw [State.frameDraw_length, Nat.zero_add])
  exact (hframe.mono nofun nofun).trans (wordsKept_rxd hi)

theorem frameStored_ringWords (hw : RingWordsInv s) {i : Nat} (hi : i < s.cfg.n) {w : Word} (hok : RxWordOk s.cfg i w) :
    RingWordsInv (s.frameStored i w) := by
  refine hw.of_wordsKept (t := s.frameStored i w) ⟨rfl, rfl, rfl, rfl⟩ (wordsKept_frameStored hi w) ?_ nofun
  rintro j - rfl
  exact ⟨rxFilled w, Memory.readWord_writeWord _ _ _, hok.filled⟩

theorem frameSent_ringWords (hw : RingWordsInv s) {i : Nat} (hi : i < s.cfg.n) {w : Word} (hok : TxWordOk s.cfg i w) :
    RingWordsInv (s.frameSent i w) :=
  hw.writeTx hi (hok.sent s.statDraw) ⟨rfl, rfl, rfl, rfl⟩ rfl

theorem RingEffect.ringWords (h : RingEffect s t) (hs : SetupInv s) (hw : RingWordsInv s) : RingWordsInv t := by
  cases h with
  | other h => exact hw.of_sameRings h
  | layout h =>
    obtain ⟨-, -, rfl⟩ := layoutOp_ok_iff.mp h
    exact hw.of_sameMem ⟨rfl, rfl, rfl, rfl⟩ rfl
  | rxSetup h => exact rxSetupOp_ringWords hs hw h
  | txSetup h => exact txSetupOp_ringWords hs hw h
  | dummySetup h => exact dummySetupOp_ringWords hs hw h
  | setRxq pa h =>
    obtain ⟨-, -, L, -, -, rfl⟩ := devSetRxqBaseOp_ok_iff.mp h
    exact hw.of_sameMem ⟨rfl, rfl, rfl, rfl⟩ rfl
  | setTxq pa h =>
    obtain ⟨-, -, L, -, -, rfl⟩ := devSetTxqBaseOp_ok_iff.mp h
    exact hw.of_sameMem ⟨rfl, rfl, rfl, rfl⟩ rfl
  | setTxq1 pa h =>
    obtain ⟨-, -, L, -, -, rfl⟩ := devSetTxq1BaseOp_ok_iff.mp h
    exact hw.of_sameMem ⟨rfl, rfl, rfl, rfl⟩ rfl
  | borrow h =>
    obtain ⟨-, c, L, w, -, -, rfl⟩ := rxRecvNextOp_ok_iff.mp h
    exact hw.of_sameMem ⟨rfl, rfl, rfl, rfl⟩ rfl
  | release h =>
    obtain ⟨c, w, hlt, -, -, -, hok, -, rfl⟩ := release_inv hs hw h
    exact hw.writeRx hlt hok.released ⟨rfl, rfl, rfl, rfl⟩ rfl
  | claim len h =>
    obtain ⟨c, w, hlt, hr, -, hlen, -, -, hok, -, rfl⟩ := claim_inv hs hw h
    exact hw.writeTx hlt (hok.claimed hlen (hs.tx_layout hr).2.1.2.2.2) ⟨rfl, rfl, rfl, rfl⟩ rfl
  | commit a h =>
    obtain ⟨-, c, L, -, -, -, -, rfl⟩ := txSendCompleteOp_ok_iff.mp h
    exact hw.of_sameMem ⟨rfl, rfl, rfl, rfl⟩ rfl
  | kick pa h =>
    obtain ⟨-, L, -, -, rfl⟩ := devKickOp_ok_iff.mp h
    exact hw.of_sameMem ⟨rfl, rfl, rfl, rfl⟩ rfl
  | bufWr ring off byte h =>
    obtain ⟨k, ht⟩ := bufWr_inv hs h
    rw [ht]
    exact hw.of_wordsKept (t := { s with mem := t.mem, st := some .ok }) ⟨rfl, rfl, rfl, rfl⟩ k nofun nofun
  | simRx idx h =>
    obtain ⟨w, -, hlt, -, hok, rfl⟩ := simRx_inv hs hw h
    exact hw.writeRx hlt hok.filled ⟨rfl, rfl, rfl, rfl⟩ rfl
  | simTx idx h =>
    obtain ⟨w, -, hlt, -, hok, rfl⟩ := simTx_inv hs hw h
    exact hw.writeTx hlt hok.returned ⟨rfl, rfl, rfl, rfl⟩ rfl
  | storeFrame i L w hon hhead hown h =>
    obtain ⟨hlt, -, -, hok, -, rfl⟩ := storeFrame_inv hs hw hon hhead h
    exact frameStored_ringWords hw hlt hok
  | sendFrame i L w hon htail hused h =>
    obtain ⟨hlt, -, -, hok, -, -, rfl⟩ := sendFrame_inv hs hw hon htail hused h
    exact frameSent_ringWords hw hlt hok
  | stop h =>
    obtain ⟨-, rfl⟩ | ⟨-, i, L, w, -, rfl⟩ := dmaTxStopOp_ok_iff.mp h
    · exact hw
    · split
      · exact hw.of_sameMem ⟨rfl, rfl, rfl, rfl⟩ rfl
      · exact hw

end Sys2Proof.Machine
end

section
/-! PROOFS. Every step keeps the descriptor words (10_state.md R57, R59; 43_dummy_tx.md R231). -/

open Sys2Proof Sys2Proof.Machine

/-- Settles O50: under the setup order every effect rewrites a word only to one that setup's fields are kept in. -/
theorem ringWordsKept : Obligations.RingWordsKept := fun _ _ hs hw h =>
  (step_keeps_of_effect (P := fun u => SetupInv u ∧ RingWordsInv u) (fun _ _ _ _ _ _ ⟨hs, hw⟩ => ⟨hs.frame, hw.frame⟩)
    (fun _ _ he ⟨hs, hw⟩ => ⟨he.setupInv hs, he.ringWords hs hw⟩) h ⟨hs, hw⟩).2

end

section
/-! SUPPORT. RX occupancy (10_state.md R58) under each effect: releasing a slot takes the first from the run of
`SW_OWNED` slots, storing a frame adds the next, and every other effect leaves the ring's ownership bits alone. -/

namespace Sys2Proof.Machine

theorem Consecutive.congr {n c h : Nat} {f g : Nat → Bool} (hf : Consecutive n c h f) (hfg : ∀ i < n, g i = f i) :
    Consecutive n c h g := by
  obtain ⟨hle, hpos, hmem⟩ := hf
  rw [← countP_range_congr hfg] at hle hpos hmem
  exact ⟨hle, hpos, fun i hi => (hfg i hi).trans (hmem i hi)⟩

/-- No slots are consecutive from the first. -/
theorem consecutive_of_none {n : Nat} {f : Nat → Bool} (hf : ∀ i < n, f i = false) : Consecutive n 0 0 f := by
  have hcount : (List.range n).countP f = 0 := by
    rw [countP_range_congr (g := fun _ => false) hf, List.countP_false, Function.const_apply]
  refine ⟨by omega, by rw [hcount, Nat.zero_mod], fun i hi => ?_⟩
  rw [hcount, hf i hi]
  rfl

/-- RX occupancy as a run of slots on the ring. -/
theorem rxOccupancy_iff {s : State} :
    RxOccupancy s ↔ (s.rxState = .ready → ∀ c, s.rxCursor = some c →
      Consecutive s.cfg.n c (s.hwRxIdx.getD 0) (rxOwned s (layoutFor s.cfg))) := Iff.rfl

theorem rxOwned_congr {s t : State} {L : Layout} {i : Nat}
    (h : t.mem.readWord (L.rxdOff i) = s.mem.readWord (L.rxdOff i)) : rxOwned t L i = rxOwned s L i := by
  unfold rxOwned State.wordHas
  rw [h]

theorem txBusy_congr {s t : State} {L : Layout} {i : Nat}
    (h : t.mem.readWord (L.txd1Off i) = s.mem.readWord (L.txd1Off i)) : txBusy t L i = txBusy s L i := by
  unfold txBusy State.wordHas
  rw [h]

variable {s t : State}

/-- The RX ring's two positions are in `t` as in `s`. -/
structure SameRx (s t : State) : Prop where
  cfg : t.cfg = s.cfg
  state : t.rxState = s.rxState
  cursor : t.rxCursor = s.rxCursor
  head : t.hwRxIdx.getD 0 = s.hwRxIdx.getD 0

theorem RxOccupancy.congr (ho : RxOccupancy s) (hsame : SameRx s t)
    (hwords : ∀ i < s.cfg.n, t.mem.readWord ((layoutFor s.cfg).rxdOff i) =
      s.mem.readWord ((layoutFor s.cfg).rxdOff i)) : RxOccupancy t := by
  obtain ⟨hcfg, hstate, hcursor, hhead⟩ := hsame
  intro hr c hc
  have hrun := rxOccupancy_iff.mp ho (hstate.symm.trans hr) c (hcursor.symm.trans hc)
  rw [← hhead] at hrun
  show Consecutive t.cfg.n c (t.hwRxIdx.getD 0) (rxOwned t (layoutFor t.cfg))
  rw [hcfg]
  exact hrun.congr fun i hi => rxOwned_congr (hwords i hi)

/-- No byte is stored. -/
theorem RxOccupancy.of_sameMem (ho : RxOccupancy s) (hsame : SameRx s t) (hmem : t.mem = s.mem) : RxOccupancy t :=
  ho.congr hsame fun _ _ => by rw [hmem]

theorem RxOccupancy.of_sameRings (ho : RxOccupancy s) (h : SameRings s t) : RxOccupancy t := by
  rw [h]
  exact ho

/-- Before the ring is set up its base register is not written, and the head counts as 0. -/
theorem SetupInv.rxHead_of_uninit (hs : SetupInv s) (h : s.rxState = .uninit) : s.hwRxIdx = none := by
  have hunset : s.rxqSet = false := Bool.eq_false_iff.mpr fun hset =>
    absurd (h.symm.trans (hs.rxSet hset).1) nofun
  exact (hs.rxUnset hunset).1

theorem rxSetupOp_rxOccupancy (hs : SetupInv s) (h : rxSetupOp s = .ok t) : RxOccupancy t := by
  obtain ⟨-, huninit, L, hL, -, rfl⟩ := rxSetupOp_ok_iff.mp h
  obtain ⟨rfl, -⟩ := hs.layoutFor_eq hL
  rintro - c hc
  obtain rfl : 0 = c := Option.some.inj hc
  have hhead : s.hwRxIdx.getD 0 = 0 := by rw [hs.rxHead_of_uninit huninit]; rfl
  show Consecutive s.cfg.n 0 (s.hwRxIdx.getD 0) _
  rw [hhead]
  refine consecutive_of_none fun i hi => ?_
  rw [rxOwned_of (readWord_store_rxTable s.mem s.cfg _ hi)]
  exact rxOwn_rxSetupWord _ _

theorem release_rxOccupancy (hs : SetupInv s) (hw : RingWordsInv s) (ho : RxOccupancy s) (h : rxMarkDoneOp s = .ok t) :
    RxOccupancy t := by
  obtain ⟨c, w, hlt, hr, hc, hread, -, hown, rfl⟩ := release_inv hs hw h
  rintro - d hd
  obtain rfl : cursorNext s.cfg.n c = d := Option.some.inj hd
  refine (rxOccupancy_iff.mp ho hr c hc).remove hlt ((rxOwned_of hread).trans hown) ?released fun i hi hne => ?others
  case released =>
    rw [rxOwned_of (Memory.readWord_writeWord _ _ _)]
    exact rxOwn_rxReleased w
  case others => exact rxOwned_congr ((wordsKept_rxd hlt).rx i hi hne)

theorem frameStored_rxOccupancy (hs : SetupInv s) (ho : RxOccupancy s) (hr : s.rxState = .ready) {i : Nat} {w : Word}
    (hlt : i < s.cfg.n) (hi : s.hwRxIdx = some i) (hread : s.mem.readWord ((layoutFor s.cfg).rxdOff i) = some w)
    (hown : rxOwn w = false) : RxOccupancy (s.frameStored i w) := by
  rintro - c hc
  have hrun : Consecutive s.cfg.n c i (rxOwned s (layoutFor s.cfg)) := by
    have hrun := rxOccupancy_iff.mp ho hr c hc
    rwa [hi] at hrun
  refine hrun.add (hs.rxCursor_lt hr hc) hlt ((rxOwned_of hread).trans hown) ?filled fun j hj hne => ?others
  case filled =>
    rw [rxOwned_of (Memory.readWord_writeWord _ _ _)]
    exact rxOwn_rxFilled w
  case others => exact rxOwned_congr ((wordsKept_frameStored hlt w).rx j hj hne)

theorem RingEffect.rxOccupancy (h : RingEffect s t) (hharness : s.cfg.harness = false) (hs : SetupInv s)
    (hw : RingWordsInv s) (ho : RxOccupancy s) : RxOccupancy t := by
  cases h with
  | other h => exact ho.of_sameRings h
  | layout h =>
    obtain ⟨-, -, rfl⟩ := layoutOp_ok_iff.mp h
    exact ho.of_sameMem ⟨rfl, rfl, rfl, rfl⟩ rfl
  | rxSetup h => exact rxSetupOp_rxOccupancy hs h
  | txSetup h =>
    obtain ⟨-, -, L, hL, -, rfl⟩ := txSetupOp_ok_iff.mp h
    obtain ⟨rfl, -⟩ := hs.layoutFor_eq hL
    exact ho.congr ⟨rfl, rfl, rfl, rfl⟩ fun i hi => readWord_rxd_of_txTable hi
  | dummySetup h =>
    obtain ⟨-, -, L, hL, -, rfl⟩ := dummySetupOp_ok_iff.mp h
    obtain ⟨rfl, -⟩ := hs.layoutFor_eq hL
    exact ho.congr ⟨rfl, rfl, rfl, rfl⟩ fun i hi => readWord_rxd_of_writeDummy hi
  | setRxq pa h =>
    obtain ⟨hunset, -, L, -, -, rfl⟩ := devSetRxqBaseOp_ok_iff.mp h
    exact ho.of_sameMem ⟨rfl, rfl, rfl, by rw [(hs.rxUnset hunset).1]; rfl⟩ rfl
  | setTxq pa h =>
    obtain ⟨-, -, L, -, -, rfl⟩ := devSetTxqBaseOp_ok_iff.mp h
    exact ho.of_sameMem ⟨rfl, rfl, rfl, rfl⟩ rfl
  | setTxq1 pa h =>
    obtain ⟨-, -, L, -, -, rfl⟩ := devSetTxq1BaseOp_ok_iff.mp h
    exact ho.of_sameMem ⟨rfl, rfl, rfl, rfl⟩ rfl
  | borrow h =>
    obtain ⟨-, c, L, w, -, -, rfl⟩ := rxRecvNextOp_ok_iff.mp h
    exact ho.of_sameMem ⟨rfl, rfl, rfl, rfl⟩ rfl
  | release h => exact release_rxOccupancy hs hw ho h
  | claim len h =>
    obtain ⟨c, w, hlt, -, -, -, -, -, -, -, rfl⟩ := claim_inv hs hw h
    exact ho.congr ⟨rfl, rfl, rfl, rfl⟩ fun i hi => (wordsKept_txd1 hlt).rx i hi not_false
  | commit a h =>
    obtain ⟨-, c, L, -, -, -, -, rfl⟩ := txSendCompleteOp_ok_iff.mp h
    exact ho.of_sameMem ⟨rfl, rfl, rfl, rfl⟩ rfl
  | kick pa h =>
    obtain ⟨-, L, -, -, rfl⟩ := devKickOp_ok_iff.mp h
    exact ho.of_sameMem ⟨rfl, rfl, rfl, rfl⟩ rfl
  | bufWr ring off byte h =>
    obtain ⟨k, ht⟩ := bufWr_inv hs h
    exact ho.congr (by rw [ht]; exact ⟨rfl, rfl, rfl, rfl⟩) fun i hi => k.rx i hi not_false
  | simRx idx h => exact absurd (hharness.symm.trans (simRxSetOwnOp_ok_iff.mp h).1) nofun
  | simTx idx h => exact absurd (hharness.symm.trans (simTxSetOwnOp_ok_iff.mp h).1) nofun
  | storeFrame i L w hon hhead hown h =>
    obtain ⟨hlt, hr, hread, -, hi, rfl⟩ := storeFrame_inv hs hw hon hhead h
    exact frameStored_rxOccupancy hs ho hr hlt hi hread hown
  | sendFrame i L w hon htail hused h =>
    obtain ⟨hlt, -, -, -, -, -, rfl⟩ := sendFrame_inv hs hw hon htail hused h
    exact ho.congr (t := s.frameSent i w) ⟨rfl, rfl, rfl, rfl⟩ fun j hj => (wordsKept_txd1 hlt).rx j hj not_false
  | stop h =>
    obtain ⟨-, rfl⟩ | ⟨-, i, L, w, -, rfl⟩ := dmaTxStopOp_ok_iff.mp h
    · exact ho
    · split
      · exact ho.of_sameMem ⟨rfl, rfl, rfl, rfl⟩ rfl
      · exact ho

end Sys2Proof.Machine
end

section
/-! PROOFS. Every step of a run without the harness keeps RX occupancy (10_state.md R58). -/

open Sys2Proof Sys2Proof.Machine

/-- Settles O51: by the run of owned slots under each effect; the harness's two effects do not happen. -/
theorem rxOccupancyKept : Obligations.RxOccupancyKept := fun _ _ hharness hs hw ho h =>
  (step_keeps_of_effect (P := fun u => u.cfg.harness = false ∧ SetupInv u ∧ RingWordsInv u ∧ RxOccupancy u)
    (fun _ _ _ _ _ _ ⟨hharness, hs, hw, ho⟩ => ⟨hharness, hs.frame, hw.frame, ho⟩)
    (fun _ _ he ⟨hharness, hs, hw, ho⟩ => ⟨by rw [he.fixed.cfg, hharness], he.setupInv hs, he.ringWords hs hw,
      he.rxOccupancy hharness hs hw ho⟩) h ⟨hharness, hs, hw, ho⟩).2.2.2

end

section
/-! SUPPORT. TX occupancy (10_state.md R60) under each effect: claiming a slot adds the next to the run of `HW_OWNED`
slots, sending a frame takes the first, and every other effect leaves the ring's ownership bits alone. -/

namespace Sys2Proof.Machine

/-- One slot further round, every other slot is one nearer. -/
theorem ringDist_succ {n i p : Nat} (hi : i < n) (hp : p < n) (hne : p ≠ i) :
    ringDist n ((i + 1) % n) p + 1 = ringDist n i p := by
  rw [succ_mod_eq hi]
  unfold ringDist
  split <;> split <;> split <;> omega

/-- An open claim is at cursor `p` and is the last of the slots in flight. -/
def ClaimIsLast (s : State) (p : Nat) : Prop :=
  ∀ k, s.txClaim = some k → k.slot = p ∧
    (p + s.cfg.n - s.hwTxIdx.getD 0) % s.cfg.n + 1 = txBusyCount s (layoutFor s.cfg)

/-- TX occupancy as a run of slots on the ring, the claimed one last. -/
theorem txOccupancy_iff {s : State} :
    TxOccupancy s ↔ (s.txState = .ready → ∀ p, s.txCursor = some p →
      Consecutive s.cfg.n (s.hwTxIdx.getD 0) ((p + claimCount s) % s.cfg.n) (txBusy s (layoutFor s.cfg)) ∧
      ClaimIsLast s p) := by
  unfold TxOccupancy Consecutive ClaimIsLast
  simp only [and_assoc]
  rfl

theorem claimCount_of_none {s : State} (h : s.txClaim = none) : claimCount s = 0 := by
  unfold claimCount
  rw [h]
  rfl

theorem claimCount_of_some {s : State} {k : Claim} (h : s.txClaim = some k) : claimCount s = 1 := by
  unfold claimCount
  rw [h]
  rfl

variable {s t : State}

/-- The TX ring's two positions and the claim are in `t` as in `s`. -/
structure SameTx (s t : State) : Prop where
  cfg : t.cfg = s.cfg
  state : t.txState = s.txState
  cursor : t.txCursor = s.txCursor
  claim : t.txClaim = s.txClaim
  tail : t.hwTxIdx.getD 0 = s.hwTxIdx.getD 0

theorem TxOccupancy.congr (ho : TxOccupancy s) (hsame : SameTx s t)
    (hwords : ∀ i < s.cfg.n, t.mem.readWord ((layoutFor s.cfg).txd1Off i) =
      s.mem.readWord ((layoutFor s.cfg).txd1Off i)) : TxOccupancy t := by
  obtain ⟨hcfg, hstate, hcursor, hclaim, htail⟩ := hsame
  have hbusy : ∀ i < s.cfg.n, txBusy t (layoutFor s.cfg) i = txBusy s (layoutFor s.cfg) i := fun i hi =>
    txBusy_congr (hwords i hi)
  have hcount : txBusyCount t (layoutFor s.cfg) = txBusyCount s (layoutFor s.cfg) := by
    unfold txBusyCount
    rw [hcfg, countP_range_congr hbusy]
  rw [txOccupancy_iff, hcfg, hstate, hcursor, htail, show claimCount t = claimCount s by unfold claimCount; rw [hclaim]]
  intro hr p hp
  obtain ⟨hrun, hlast⟩ := txOccupancy_iff.mp ho hr p hp
  refine ⟨hrun.congr hbusy, ?_⟩
  unfold ClaimIsLast
  rw [hclaim, hcfg, htail, hcount]
  exact hlast

/-- No byte is stored. -/
theorem TxOccupancy.of_sameMem (ho : TxOccupancy s) (hsame : SameTx s t) (hmem : t.mem = s.mem) : TxOccupancy t :=
  ho.congr hsame fun _ _ => by rw [hmem]

theorem TxOccupancy.of_sameRings (ho : TxOccupancy s) (h : SameRings s t) : TxOccupancy t := by
  rw [h]
  exact ho

/-- Before the ring is set up its base register is not written, and the tail counts as 0. -/
theorem SetupInv.txTail_of_uninit (hs : SetupInv s) (h : s.txState = .uninit) : s.hwTxIdx = none := by
  have hunset : s.txqSet = false := Bool.eq_false_iff.mpr fun hset =>
    absurd (h.symm.trans (hs.txSet hset).1) nofun
  exact (hs.txUnset hunset).1

/-- The tail is a slot of the ring, or counts as 0. -/
theorem SetupInv.tail_lt (hs : SetupInv s) (hr : s.txState = .ready) : s.hwTxIdx.getD 0 < s.cfg.n := by
  cases hset : s.txqSet with
  | false =>
    rw [(hs.txUnset hset).1]
    exact hs.n_pos (hs.txNeedsLayout hr)
  | true =>
    obtain ⟨-, -, i, hlt, hi⟩ := hs.txSet hset
    rw [hi]
    exact hlt

theorem txSetupOp_txOccupancy (hs : SetupInv s) (h : txSetupOp s = .ok t) : TxOccupancy t := by
  obtain ⟨-, huninit, L, hL, -, rfl⟩ := txSetupOp_ok_iff.mp h
  obtain ⟨rfl, -⟩ := hs.layoutFor_eq hL
  rw [txOccupancy_iff]
  rintro - p hp
  obtain rfl : 0 = p := Option.some.inj hp
  refine ⟨?run, nofun⟩
  have htail : s.hwTxIdx.getD 0 = 0 := by rw [hs.txTail_of_uninit huninit]; rfl
  show Consecutive s.cfg.n (s.hwTxIdx.getD 0) (0 % s.cfg.n) _
  rw [htail, Nat.zero_mod]
  refine consecutive_of_none fun i hi => ?_
  rw [txBusy_of (readWord_store_txTable_status s.mem s.cfg _ hi), txUsed_txSetupStatus]
  rfl

theorem claim_txOccupancy {len : Nat} (hs : SetupInv s) (hw : RingWordsInv s) (ho : TxOccupancy s)
    (h : txGetNextBufferOp len s = .ok t) : TxOccupancy t := by
  obtain ⟨c, w, hlt, hr, hnone, hlen, hc, hread, -, hused, rfl⟩ := claim_inv hs hw h
  have hfits : len < 2 ^ 14 := by
    have hmtu := (hs.tx_layout hr).2.1.2.2.2
    omega
  obtain ⟨hrun, -⟩ := txOccupancy_iff.mp ho hr c hc
  rw [claimCount_of_none hnone, Nat.add_zero, Nat.mod_eq_of_lt hlt] at hrun
  have htail := hs.tail_lt hr
  have hfree : txBusy s (layoutFor s.cfg) c = false := by rw [txBusy_of hread, hused]; rfl
  rw [txOccupancy_iff]
  rintro - p hp
  obtain rfl : c = p := Option.some.inj (hc.symm.trans hp)
  set u : State := { s with mem := _, txClaim := _, res := _, st := _ } with hu
  have hbusy : txBusy u (layoutFor s.cfg) c = true := by
    rw [txBusy_of (Memory.readWord_writeWord _ _ _), txUsed_txClaimed hfits]
    rfl
  have hothers : ∀ i < s.cfg.n, i ≠ c → txBusy u (layoutFor s.cfg) i = txBusy s (layoutFor s.cfg) i := fun i hi hne =>
    txBusy_congr ((wordsKept_txd1 hlt).tx i hi hne)
  refine ⟨hrun.add htail hlt hfree hbusy hothers, ?_⟩
  intro k hk
  obtain rfl : { slot := c, len := len } = k := Option.some.inj hk
  refine ⟨rfl, ?_⟩
  show (c + s.cfg.n - s.hwTxIdx.getD 0) % s.cfg.n + 1 = (List.range s.cfg.n).countP (txBusy u (layoutFor s.cfg))
  rw [mod_eq_ringDist htail hlt, hrun.dist_of_free htail hlt hfree, countP_range_add hlt hothers hfree hbusy]

theorem commit_txOccupancy {a : Word} (ho : TxOccupancy s) (h : txSendCompleteOp s = .ok (t, a)) : TxOccupancy t := by
  obtain ⟨hr, c, L, hc, hclaim, -, -, rfl⟩ := txSendCompleteOp_ok_iff.mp h
  obtain ⟨k, hk, -⟩ := Option.map_eq_some_iff.mp hclaim
  obtain ⟨hrun, -⟩ := txOccupancy_iff.mp ho hr c hc
  rw [claimCount_of_some hk] at hrun
  rw [txOccupancy_iff]
  rintro - p hp
  obtain rfl : cursorNext s.cfg.n c = p := Option.some.inj hp
  refine ⟨?run, nofun⟩
  rw [claimCount_of_none rfl, Nat.add_zero]
  show Consecutive s.cfg.n _ ((c + 1) % s.cfg.n % s.cfg.n) _
  rw [Nat.mod_mod]
  exact hrun

/-- A frame sent takes one slot off those in flight. -/
theorem txBusyCount_frameSent {i : Nat} {w : Word} (hlt : i < s.cfg.n)
    (hread : s.mem.readWord ((layoutFor s.cfg).txd1Off i) = some w) (hused : txUsed w = false) :
    txBusyCount s (layoutFor s.cfg) = txBusyCount (s.frameSent i w) (layoutFor s.cfg) + 1 := by
  refine countP_range_add hlt (fun j hj hne => (txBusy_congr ((wordsKept_txd1 hlt).tx j hj hne)).symm) ?free ?busy
  case free => rw [txBusy_of (Memory.readWord_writeWord _ _ _), txUsed_txSent]; rfl
  case busy => rw [txBusy_of hread, hused]; rfl

theorem frameSent_txOccupancy (hs : SetupInv s) (ho : TxOccupancy s) (hr : s.txState = .ready) {i : Nat} {w : Word}
    (hlt : i < s.cfg.n) (hi : s.hwTxIdx = some i) (hread : s.mem.readWord ((layoutFor s.cfg).txd1Off i) = some w)
    (hused : txUsed w = false) (hclaim : s.txClaim.map Claim.slot ≠ some i) : TxOccupancy (s.frameSent i w) := by
  rw [txOccupancy_iff]
  rintro - p hp
  obtain ⟨hrun, hlast⟩ := txOccupancy_iff.mp ho hr p hp
  have htail : s.hwTxIdx.getD 0 = i := by rw [hi]; rfl
  rw [htail] at hrun
  have hbusy : txBusy s (layoutFor s.cfg) i = true := by rw [txBusy_of hread, hused]; rfl
  have hfree : txBusy (s.frameSent i w) (layoutFor s.cfg) i = false := by
    rw [txBusy_of (Memory.readWord_writeWord _ _ _), txUsed_txSent]
    rfl
  have hothers : ∀ j < s.cfg.n, j ≠ i → txBusy (s.frameSent i w) (layoutFor s.cfg) j = txBusy s (layoutFor s.cfg) j :=
    fun j hj hne => txBusy_congr ((wordsKept_txd1 hlt).tx j hj hne)
  refine ⟨hrun.remove hlt hbusy hfree hothers, ?_⟩
  intro k hk
  obtain ⟨hslot, hcount⟩ := hlast k hk
  refine ⟨hslot, ?_⟩
  have hne : p ≠ i := fun e => hclaim (by rw [show s.txClaim = some k from hk, Option.map_some, hslot, e])
  have hplt := hs.txCursor_lt hr hp
  rw [htail, mod_eq_ringDist hlt hplt, ← ringDist_succ hlt hplt hne, txBusyCount_frameSent hlt hread hused] at hcount
  show (p + s.cfg.n - (i + 1) % s.cfg.n) % s.cfg.n + 1 = txBusyCount (s.frameSent i w) (layoutFor s.cfg)
  rw [mod_eq_ringDist (Nat.mod_lt _ (by omega)) hplt]
  omega

theorem RingEffect.txOccupancy (h : RingEffect s t) (hharness : s.cfg.harness = false) (hs : SetupInv s)
    (hw : RingWordsInv s) (ho : TxOccupancy s) : TxOccupancy t := by
  cases h with
  | other h => exact ho.of_sameRings h
  | layout h =>
    obtain ⟨-, -, rfl⟩ := layoutOp_ok_iff.mp h
    exact ho.of_sameMem ⟨rfl, rfl, rfl, rfl, rfl⟩ rfl
  | rxSetup h =>
    obtain ⟨-, -, L, hL, -, rfl⟩ := rxSetupOp_ok_iff.mp h
    obtain ⟨rfl, -⟩ := hs.layoutFor_eq hL
    exact ho.congr ⟨rfl, rfl, rfl, rfl, rfl⟩ fun i hi => (wordsKept_rxTable s.cfg s.mem).tx i hi not_false
  | txSetup h => exact txSetupOp_txOccupancy hs h
  | dummySetup h =>
    obtain ⟨-, -, L, hL, -, rfl⟩ := dummySetupOp_ok_iff.mp h
    obtain ⟨rfl, -⟩ := hs.layoutFor_eq hL
    exact ho.congr ⟨rfl, rfl, rfl, rfl, rfl⟩ fun i hi => (readWord_txd_of_writeDummy hi).2
  | setRxq pa h =>
    obtain ⟨-, -, L, -, -, rfl⟩ := devSetRxqBaseOp_ok_iff.mp h
    exact ho.of_sameMem ⟨rfl, rfl, rfl, rfl, rfl⟩ rfl
  | setTxq pa h =>
    obtain ⟨hunset, -, L, -, -, rfl⟩ := devSetTxqBaseOp_ok_iff.mp h
    exact ho.of_sameMem ⟨rfl, rfl, rfl, rfl, by rw [(hs.txUnset hunset).1]; rfl⟩ rfl
  | setTxq1 pa h =>
    obtain ⟨-, -, L, -, -, rfl⟩ := devSetTxq1BaseOp_ok_iff.mp h
    exact ho.of_sameMem ⟨rfl, rfl, rfl, rfl, rfl⟩ rfl
  | borrow h =>
    obtain ⟨-, c, L, w, -, -, rfl⟩ := rxRecvNextOp_ok_iff.mp h
    exact ho.of_sameMem ⟨rfl, rfl, rfl, rfl, rfl⟩ rfl
  | release h =>
    obtain ⟨c, w, hlt, -, -, -, -, -, rfl⟩ := release_inv hs hw h
    exact ho.congr ⟨rfl, rfl, rfl, rfl, rfl⟩ fun i hi => (wordsKept_rxd hlt).tx i hi not_false
  | claim len h => exact claim_txOccupancy hs hw ho h
  | commit a h => exact commit_txOccupancy ho h
  | kick pa h =>
    obtain ⟨-, L, -, -, rfl⟩ := devKickOp_ok_iff.mp h
    exact ho.of_sameMem ⟨rfl, rfl, rfl, rfl, rfl⟩ rfl
  | bufWr ring off byte h =>
    obtain ⟨k, ht⟩ := bufWr_inv hs h
    exact ho.congr (by rw [ht]; exact ⟨rfl, rfl, rfl, rfl, rfl⟩) fun i hi => k.tx i hi not_false
  | simRx idx h => exact absurd (hharness.symm.trans (simRxSetOwnOp_ok_iff.mp h).1) nofun
  | simTx idx h => exact absurd (hharness.symm.trans (simTxSetOwnOp_ok_iff.mp h).1) nofun
  | storeFrame i L w hon hhead hown h =>
    obtain ⟨hlt, -, -, -, -, rfl⟩ := storeFrame_inv hs hw hon hhead h
    exact ho.congr (t := s.frameStored i w) ⟨rfl, rfl, rfl, rfl, rfl⟩ fun j hj =>
      (wordsKept_frameStored hlt w).tx j hj not_false
  | sendFrame i L w hon htail hused h =>
    obtain ⟨hlt, hr, hread, -, hi, hclaim, rfl⟩ := sendFrame_inv hs hw hon htail hused h
    exact frameSent_txOccupancy hs ho hr hlt hi hread hused hclaim
  | stop h =>
    obtain ⟨-, rfl⟩ | ⟨-, i, L, w, -, rfl⟩ := dmaTxStopOp_ok_iff.mp h
    · exact ho
    · split
      · exact ho.of_sameMem ⟨rfl, rfl, rfl, rfl, rfl⟩ rfl
      · exact ho

end Sys2Proof.Machine
end

section
/-! PROOFS. Every step of a run without the harness keeps TX occupancy (10_state.md R60). -/

open Sys2Proof Sys2Proof.Machine

/-- Settles O52: by the run of slots in flight under each effect; the harness's two effects do not happen. -/
theorem txOccupancyKept : Obligations.TxOccupancyKept := fun _ _ hharness hs hw ho h =>
  (step_keeps_of_effect (P := fun u => u.cfg.harness = false ∧ SetupInv u ∧ RingWordsInv u ∧ TxOccupancy u)
    (fun _ _ _ _ _ _ ⟨hharness, hs, hw, ho⟩ => ⟨hharness, hs.frame, hw.frame, ho⟩)
    (fun _ _ he ⟨hharness, hs, hw, ho⟩ => ⟨by rw [he.fixed.cfg, hharness], he.setupInv hs, he.ringWords hs hw,
      he.txOccupancy hharness hs hw ho⟩) h ⟨hharness, hs, hw, ho⟩).2.2.2

end

section
/-! SUPPORT. `DRV_INIT` as one effect (44_driver.md R257, 10_state.md R64). -/

namespace Sys2Proof.Machine

/-- The memory with both tables and the dummy record as setup writes them. -/
def Memory.writeTables (m : Memory) (c : Config) : Memory :=
  ((m.store ((layoutFor c).rxdOff 0) (rxTable c (layoutFor c))).store ((layoutFor c).txd0Off 0)
    (txTable c (layoutFor c))).writeDummy (layoutFor c)

/-- The state that `DRV_INIT` leaves, but for `pc` (10_state.md R64). -/
def State.initialized (s : State) : State :=
  { s with
    layout := some (layoutFor s.cfg), layoutSet := true, mem := s.mem.writeTables s.cfg
    rxState := .ready, txState := .ready, dmyState := .ready
    rxCursor := some 0, txCursor := some 0, rxBorrow := none, txClaim := none
    rxqBase := some (paWord (layoutFor s.cfg).rxd.pa), txqBase := some (paWord (layoutFor s.cfg).txd.pa)
    txq1Base := some (paWord (layoutFor s.cfg).dmy.pa), rxqSet := true, txqSet := true, txq1Set := true
    hwRxIdx := some 0, hwTxIdx := some 0, rxEnabled := true, txRunning := false, st := some .ok }

/-- Nothing is set up, and the layout would be accepted. -/
structure Initializable (s : State) : Prop where
  layout : s.layoutSet = false
  accepts : layoutAccepts s.cfg
  rx : s.rxState = .uninit
  tx : s.txState = .uninit
  dmy : s.dmyState = .uninit
  rxq : s.rxqSet = false
  txq : s.txqSet = false
  txq1 : s.txq1Set = false

/-- An address of an accepted layout fits a register. -/
theorem paWord_toNat_of_accepted {c : Config} (h : layoutAccepts c) {off : Nat} (hoff : off < (layoutFor c).stop) :
    (paWord (c.paBase + off)).toNat = c.paBase + off := by
  have hbound := h.2.2.2.1
  rw [Config.PA_W] at hbound
  rw [paWord, BitVec.toNat_ofNat, Nat.mod_eq_of_lt (by omega)]

/-- The three bases of an accepted layout fit their registers. -/
theorem bases_toNat {c : Config} (h : layoutAccepts c) :
    (paWord (layoutFor c).rxd.pa).toNat = (layoutFor c).rxd.pa ∧
      (paWord (layoutFor c).txd.pa).toNat = (layoutFor c).txd.pa ∧
      (paWord (layoutFor c).dmy.pa).toNat = (layoutFor c).dmy.pa := by
  have hstop := layoutFor_stop c
  refine ⟨paWord_toNat_of_accepted h ?rxd, paWord_toNat_of_accepted h ?txd, paWord_toNat_of_accepted h ?dmy⟩
  case rxd => omega
  case txd => simp only [Config.RXD]; omega
  case dmy => simp only [Config.RXD, Config.TXD]; omega

/-- The two tables and the dummy record of an accepted layout lie inside the Region. -/
theorem tables_inside {c : Config} (h : layoutAccepts c) :
    (layoutFor c).rxdOff 0 + Config.RXD * c.n ≤ c.size ∧ (layoutFor c).txd0Off 0 + Config.TXD * c.n ≤ c.size ∧
      (layoutFor c).dmy0Off + Config.TXD ≤ c.size := by
  have hsize := h.2.1
  rw [layoutFor_stop] at hsize
  refine ⟨?rxd, ?txd, ?dmy⟩
  case rxd => rw [layoutFor_rxdOff, Config.RXD]; omega
  case txd => rw [layoutFor_txd0Off, Config.TXD]; omega
  case dmy => rw [layoutFor_dmy0Off, Config.TXD]; omega

theorem drvInitOp_eq_of_initializable {s : State} (h : Initializable s) : drvInitOp s = .ok s.initialized := by
  obtain ⟨hlayout, haccepts, hrx, htx, hdmy, hrxq, htxq, htxq1⟩ := h
  obtain ⟨hrxd, htxd, hdmyd⟩ := bases_toNat haccepts
  obtain ⟨hrxSize, htxSize, hdmySize⟩ := tables_inside haccepts
  exact drvInitOp_ok_iff.mpr ⟨_, _, _, _, layoutFor s.cfg, _, _, _, layoutOp_ok_iff.mpr ⟨hlayout, haccepts, rfl⟩,
    rxSetupOp_ok_iff.mpr ⟨rfl, hrx, _, rfl, hrxSize, rfl⟩, txSetupOp_ok_iff.mpr ⟨rfl, htx, _, rfl, htxSize, rfl⟩,
    dummySetupOp_ok_iff.mpr ⟨rfl, hdmy, _, rfl, hdmySize, rfl⟩, rfl,
    devSetRxqBaseOp_ok_iff.mpr ⟨hrxq, rfl, _, rfl, hrxd, rfl⟩,
    devSetTxqBaseOp_ok_iff.mpr ⟨htxq, rfl, _, rfl, htxd, rfl⟩,
    devSetTxq1BaseOp_ok_iff.mpr ⟨htxq1, rfl, _, rfl, hdmyd, rfl⟩, rfl⟩

theorem initializable_of_drvInitOp {s t : State} (h : drvInitOp s = .ok t) : Initializable s := by
  obtain ⟨s1, s2, s3, s4, L, s5, s6, s7, h1, h2, h3, h4, -, h5, h6, h7, rfl⟩ := drvInitOp_ok_iff.mp h
  obtain ⟨hlayout, haccepts, rfl⟩ := layoutOp_ok_iff.mp h1
  obtain ⟨-, hrx, _, -, -, rfl⟩ := rxSetupOp_ok_iff.mp h2
  obtain ⟨-, htx, _, -, -, rfl⟩ := txSetupOp_ok_iff.mp h3
  obtain ⟨-, hdmy, _, -, -, rfl⟩ := dummySetupOp_ok_iff.mp h4
  obtain ⟨hrxq, -, _, -, -, rfl⟩ := devSetRxqBaseOp_ok_iff.mp h5
  obtain ⟨htxq, -, _, -, -, rfl⟩ := devSetTxqBaseOp_ok_iff.mp h6
  obtain ⟨htxq1, -, _, -, -, rfl⟩ := devSetTxq1BaseOp_ok_iff.mp h7
  exact ⟨hlayout, haccepts, hrx, htx, hdmy, hrxq, htxq, htxq1⟩

/-- `DRV_INIT` completes where nothing is set up, in one effect. -/
theorem drvInitOp_ok_iff_initialized {s t : State} :
    drvInitOp s = .ok t ↔ Initializable s ∧ t = s.initialized := by
  constructor
  · intro h
    have hinit := initializable_of_drvInitOp h
    rw [drvInitOp_eq_of_initializable hinit] at h
    exact ⟨hinit, (Except.ok.inj h).symm⟩
  · rintro ⟨h, rfl⟩
    exact drvInitOp_eq_of_initializable h

/-- The commands of 44_driver.md R251 that move a handle. -/
def movesHandle : Instr → Bool
  | .drvReceive | .drvTransmit | .rxhBegin | .rxhEnd _ | .txhBegin _ | .txhEnd _ | .handleDrop _ => true
  | .layout | .rxSetup | .rxAvail | .rxRecvNext | .rxMarkDone | .txSetup | .txAvail | .txGetNextBuffer _
  | .txSendComplete | .dummySetup | .drvInit | .drvCaps | .drvClassifyIrq | .bufRd _ _ | .bufWr _ _ _
  | .devSetRxqBase _ | .devSetTxqBase _ | .devSetTxq1Base _ | .devKick _ | .devClearIrq | .simRxSetOwn _
  | .simTxSetOwn _ | .dmaRxFrame | .dmaRxDrop | .dmaTxFrame | .dmaTxStop => false

/-- The handles are in `t` as in `s`. -/
def SameHandles (s t : State) : Prop := t.hrx = s.hrx ∧ t.htx = s.htx

section
variable {s t : State}

theorem rxRecvNextOp_sameHandles (h : rxRecvNextOp s = .ok t) : SameHandles s t := by
  obtain ⟨-, _, _, _, -, -, rfl⟩ := rxRecvNextOp_ok_iff.mp h
  exact ⟨rfl, rfl⟩

theorem rxMarkDoneOp_sameHandles (h : rxMarkDoneOp s = .ok t) : SameHandles s t := by
  obtain ⟨_, _, _, -, -, rfl⟩ := rxMarkDoneOp_ok_iff.mp h
  exact ⟨rfl, rfl⟩

theorem txGetNextBufferOp_sameHandles {len : Nat} (h : txGetNextBufferOp len s = .ok t) : SameHandles s t := by
  obtain ⟨-, -, -, _, _, _, -, -, rfl⟩ := txGetNextBufferOp_ok_iff.mp h
  exact ⟨rfl, rfl⟩

theorem txSendCompleteOp_sameHandles {a : Word} (h : txSendCompleteOp s = .ok (t, a)) : SameHandles s t := by
  obtain ⟨-, _, _, -, -, -, -, rfl⟩ := txSendCompleteOp_ok_iff.mp h
  exact ⟨rfl, rfl⟩

theorem devKickOp_sameHandles {pa : Word} (h : devKickOp pa s = .ok t) : SameHandles s t := by
  obtain ⟨-, _, -, -, rfl⟩ := devKickOp_ok_iff.mp h
  exact ⟨rfl, rfl⟩

theorem dmaRxFrameOp_sameHandles (h : dmaRxFrameOp s = .ok t) : SameHandles s t := by
  obtain ⟨-, rfl⟩ | ⟨-, _, _, _, -, ⟨-, rfl⟩ | ⟨-, h⟩⟩ := dmaRxFrameOp_ok_iff.mp h
  · exact ⟨rfl, rfl⟩
  · exact ⟨rfl, rfl⟩
  · obtain ⟨_, -, -, -, -, rfl⟩ := dmaStoreFrame_ok_iff.mp h
    exact ⟨rfl, rfl⟩

theorem dmaTxFrameOp_sameHandles (h : dmaTxFrameOp s = .ok t) : SameHandles s t := by
  obtain ⟨-, rfl⟩ | ⟨-, _, _, _, -, ⟨-, rfl⟩ | ⟨-, h⟩⟩ := dmaTxFrameOp_ok_iff.mp h
  · exact ⟨rfl, rfl⟩
  · exact ⟨rfl, rfl⟩
  · obtain ⟨-, _, _, -, -, -, -, -, rfl⟩ := dmaSendFrame_ok_iff.mp h
    exact ⟨rfl, rfl⟩

theorem dmaTxStopOp_sameHandles (h : dmaTxStopOp s = .ok t) : SameHandles s t := by
  obtain ⟨-, rfl⟩ | ⟨-, _, _, _, -, rfl⟩ := dmaTxStopOp_ok_iff.mp h
  · exact ⟨rfl, rfl⟩
  · split <;> exact ⟨rfl, rfl⟩

/-- Every other rule keeps both handles. -/
theorem bodyOf_sameHandles {i : Instr} (hi : movesHandle i = false) (h : bodyOf i s = .ok t) : SameHandles s t := by
  cases i with
  | drvReceive | drvTransmit | rxhBegin | rxhEnd _ | txhBegin _ | txhEnd _ | handleDrop _ => cases hi
  | layout => obtain ⟨-, -, rfl⟩ := layoutOp_ok_iff.mp (exclusive_ok_iff.mp h).2.2; exact ⟨rfl, rfl⟩
  | rxSetup => obtain ⟨-, -, _, -, -, rfl⟩ := rxSetupOp_ok_iff.mp (exclusive_ok_iff.mp h).2.2; exact ⟨rfl, rfl⟩
  | txSetup => obtain ⟨-, -, _, -, -, rfl⟩ := txSetupOp_ok_iff.mp (exclusive_ok_iff.mp h).2.2; exact ⟨rfl, rfl⟩
  | dummySetup => obtain ⟨-, -, _, -, -, rfl⟩ := dummySetupOp_ok_iff.mp (exclusive_ok_iff.mp h).2.2; exact ⟨rfl, rfl⟩
  | drvInit => obtain ⟨-, rfl⟩ := drvInitOp_ok_iff_initialized.mp (exclusive_ok_iff.mp h).2.2; exact ⟨rfl, rfl⟩
  | devSetRxqBase pa =>
    obtain ⟨-, -, _, -, -, rfl⟩ := devSetRxqBaseOp_ok_iff.mp (exclusive_ok_iff.mp h).2.2; exact ⟨rfl, rfl⟩
  | devSetTxqBase pa =>
    obtain ⟨-, -, _, -, -, rfl⟩ := devSetTxqBaseOp_ok_iff.mp (exclusive_ok_iff.mp h).2.2; exact ⟨rfl, rfl⟩
  | devSetTxq1Base pa =>
    obtain ⟨-, -, _, -, -, rfl⟩ := devSetTxq1BaseOp_ok_iff.mp (exclusive_ok_iff.mp h).2.2; exact ⟨rfl, rfl⟩
  | rxRecvNext => exact rxRecvNextOp_sameHandles (exclusive_ok_iff.mp h).2.2
  | rxMarkDone => exact rxMarkDoneOp_sameHandles (exclusive_ok_iff.mp h).2.2
  | txGetNextBuffer len => exact txGetNextBufferOp_sameHandles (exclusive_ok_iff.mp h).2.2
  | txSendComplete =>
    obtain ⟨_, hsend⟩ := txCommitOp_ok_iff.mp (exclusive_ok_iff.mp h).2.2
    exact txSendCompleteOp_sameHandles hsend
  | rxAvail => obtain ⟨_, _, _, -, rfl⟩ := rxAvailOp_ok_iff.mp h; exact ⟨rfl, rfl⟩
  | txAvail => obtain ⟨-, _, _, _, -, rfl⟩ := txAvailOp_ok_iff.mp h; exact ⟨rfl, rfl⟩
  | drvCaps | drvClassifyIrq | devClearIrq => cases h; exact ⟨rfl, rfl⟩
  | bufRd ring off => obtain ⟨_, _, -, -, -, rfl⟩ := bufRdOp_ok_iff.mp h; exact ⟨rfl, rfl⟩
  | bufWr ring off byte => obtain ⟨_, -, -, rfl⟩ := bufWrOp_ok_iff.mp h; exact ⟨rfl, rfl⟩
  | devKick pa => exact devKickOp_sameHandles h
  | simRxSetOwn idx => obtain ⟨-, -, -, _, _, -, -, -, rfl⟩ := simRxSetOwnOp_ok_iff.mp h; exact ⟨rfl, rfl⟩
  | simTxSetOwn idx => obtain ⟨-, -, -, _, _, -, -, -, rfl⟩ := simTxSetOwnOp_ok_iff.mp h; exact ⟨rfl, rfl⟩
  | dmaRxFrame => exact dmaRxFrameOp_sameHandles h
  | dmaRxDrop => obtain ⟨rfl, -⟩ := dmaRxDropOp_ok_iff.mp h; exact ⟨rfl, rfl⟩
  | dmaTxFrame => exact dmaTxFrameOp_sameHandles h
  | dmaTxStop => exact dmaTxStopOp_sameHandles h

end

end Sys2Proof.Machine
end

section
/-! PROOFS. The transitions of the two handles (44_driver.md R251). -/

open Sys2Proof Sys2Proof.Machine

/-- Settles O55: a rule that moves no handle keeps both, a raised fault too, and each of the other rules is read off. -/
theorem handleTransitions : Obligations.HandleTransitions := by
  intro i s t h
  rcases exec_cases h with ⟨-, u, hu, rfl⟩ | ⟨r, -, rfl⟩
  case inr => exact ⟨.inl rfl, .inl rfl⟩
  have hdone : (Instr.done i u).hrx = u.hrx ∧ (Instr.done i u).htx = u.htx := by
    unfold Instr.done
    split <;> exact ⟨rfl, rfl⟩
  rw [hdone.1, hdone.2]
  cases hi : movesHandle i with
  | false => exact ⟨.inl (bodyOf_sameHandles hi hu).1, .inl (bodyOf_sameHandles hi hu).2⟩
  | true =>
    cases i with
    | drvReceive =>
      obtain ⟨hrx, htx, hop⟩ := exclusive_ok_iff.mp hu
      obtain ⟨-, _, _, _, _, _, _, -, -, rfl⟩ := drvReceiveOp_ok_iff.mp hop
      split
      · exact ⟨.inr (.inl ⟨rfl, ⟨hrx, htx⟩, rfl, rfl⟩), .inr (.inl ⟨.inl rfl, ⟨hrx, htx⟩, rfl⟩)⟩
      · exact ⟨.inl rfl, .inl rfl⟩
    | drvTransmit =>
      obtain ⟨hrx, htx, hop⟩ := exclusive_ok_iff.mp hu
      obtain ⟨-, _, _, _, -, rfl⟩ := drvTransmitOp_ok_iff.mp hop
      split
      · exact ⟨.inl rfl, .inr (.inl ⟨.inr rfl, ⟨hrx, htx⟩, rfl⟩)⟩
      · exact ⟨.inl rfl, .inl rfl⟩
    | rxhBegin =>
      obtain ⟨hlive, -, v, hv, rfl⟩ := rxhBeginOp_ok_iff.mp hu
      exact ⟨.inr (.inr (.inl ⟨rfl, hlive, rfl⟩)), .inl (rxRecvNextOp_sameHandles hv).2⟩
    | rxhEnd r =>
      obtain ⟨hactive, v, hv, rfl⟩ := rxhEndOp_ok_iff.mp hu
      exact ⟨.inr (.inr (.inr (.inr ⟨r, rfl, hactive, rfl⟩))), .inl (rxMarkDoneOp_sameHandles hv).2⟩
    | txhBegin len =>
      obtain ⟨hlive, -, ⟨-, v, hv, rfl⟩ | ⟨-, -, v, hv, rfl⟩ | ⟨hlong, hpolicy, rfl⟩⟩ := txhBeginOp_ok_iff.mp hu
      · exact ⟨.inl (txGetNextBufferOp_sameHandles hv).1, .inr (.inr (.inl ⟨len, rfl, hlive, rfl⟩))⟩
      · exact ⟨.inl (txGetNextBufferOp_sameHandles hv).1, .inr (.inr (.inl ⟨len, rfl, hlive, rfl⟩))⟩
      · exact ⟨.inl rfl, .inr (.inr (.inr (.inl ⟨len, rfl, hlive, rfl, hpolicy, hlong⟩)))⟩
    | txhEnd r =>
      obtain ⟨hactive, v, a, v', hv, hv', rfl⟩ := txhEndOp_ok_iff.mp hu
      exact ⟨.inl ((devKickOp_sameHandles hv').1.trans (txSendCompleteOp_sameHandles hv).1),
        .inr (.inr (.inr (.inr (.inr ⟨r, rfl, hactive, rfl⟩))))⟩
    | handleDrop which =>
      cases which
      · obtain ⟨hlive, rfl⟩ := handleDropOp_rx_ok_iff.mp hu
        exact ⟨.inr (.inr (.inr (.inl ⟨rfl, hlive, rfl⟩))), .inl rfl⟩
      · obtain ⟨hlive, rfl⟩ := handleDropOp_tx_ok_iff.mp hu
        exact ⟨.inl rfl, .inr (.inr (.inr (.inr (.inl ⟨rfl, hlive, rfl⟩))))⟩
    | _ => cases hi

end

section
/-! SUPPORT. What the DMA agent and buffer writes leave to software (10_state.md R62), and the reservation of the cursor
slots by the handles (44_driver.md R242 to R251, R260) under each rule. -/

namespace Sys2Proof.Machine

/-- Every slot that is software's in `s`, on either ring, is software's in `t`. -/
structure KeepsAvailable (s t : State) : Prop where
  rx : ∀ i < s.cfg.n, rxOwned s (layoutFor s.cfg) i = true → rxOwned t (layoutFor s.cfg) i = true
  tx : ∀ i < s.cfg.n, txBusy s (layoutFor s.cfg) i = false → txBusy t (layoutFor s.cfg) i = false

variable {s t : State}

theorem KeepsAvailable.of_sameMem (h : t.mem = s.mem) : KeepsAvailable s t where
  rx i _ hi := by rwa [rxOwned_congr (t := t) (s := s) (by rw [h])]
  tx i _ hi := by rwa [txBusy_congr (t := t) (s := s) (by rw [h])]

theorem KeepsAvailable.of_wordsKept (k : WordsKept s.cfg s.mem t.mem (fun _ => False) fun _ => False) :
    KeepsAvailable s t where
  rx i hi hown := by rwa [rxOwned_congr (t := t) (s := s) (k.rx i hi not_false)]
  tx i hi hfree := by rwa [txBusy_congr (t := t) (s := s) (k.tx i hi not_false)]

/-- A stored frame hands its slot to software and takes none. -/
theorem frameStored_keepsAvailable {i : Nat} (hi : i < s.cfg.n) (w : Word) : KeepsAvailable s (s.frameStored i w) where
  rx j hj hown := by
    by_cases hji : j = i
    · subst hji
      rw [rxOwned_of (Memory.readWord_writeWord _ _ _), rxOwn_rxFilled]
    · rwa [rxOwned_congr (s := s) ((wordsKept_frameStored hi w).rx j hj hji)]
  tx j hj hfree := by rwa [txBusy_congr (s := s) ((wordsKept_frameStored hi w).tx j hj not_false)]

/-- A sent frame returns its slot to software and takes none. -/
theorem frameSent_keepsAvailable {i : Nat} (hi : i < s.cfg.n) (w : Word) : KeepsAvailable s (s.frameSent i w) where
  rx j hj hown := by rwa [rxOwned_congr (t := s.frameSent i w) (s := s) ((wordsKept_txd1 hi).rx j hj not_false)]
  tx j hj hfree := by
    by_cases hji : j = i
    · subst hji
      rw [txBusy_of (Memory.readWord_writeWord _ _ _), txUsed_txSent]
      rfl
    · rwa [txBusy_congr (t := s.frameSent i w) (s := s) ((wordsKept_txd1 hi).tx j hj hji)]

theorem dmaTxStopOp_mem (h : dmaTxStopOp s = .ok t) : t.mem = s.mem := by
  obtain ⟨-, rfl⟩ | ⟨-, _, _, _, -, rfl⟩ := dmaTxStopOp_ok_iff.mp h
  · rfl
  · split <;> rfl

section
variable (hs : SetupInv s) (hw : RingWordsInv s)
include hs hw

/-- What the rule of `DMA_RX_FRAME` does where the words are as setup wrote them: nothing, or it stores a frame. -/
theorem dmaRxFrameOp_cases (h : dmaRxFrameOp s = .ok t) :
    t = s ∨ ∃ i w, i < s.cfg.n ∧ t = s.frameStored i w := by
  obtain ⟨-, rfl⟩ | ⟨hon, i, L, w, hhead, ⟨-, rfl⟩ | ⟨-, h⟩⟩ := dmaRxFrameOp_ok_iff.mp h
  · exact .inl rfl
  · exact .inl rfl
  · obtain ⟨hlt, -, -, -, -, rfl⟩ := storeFrame_inv hs hw hon hhead h
    exact .inr ⟨i, w, hlt, rfl⟩

/-- What the rule of `DMA_TX_FRAME` does where the words are as setup wrote them: nothing, or it sends a frame. -/
theorem dmaTxFrameOp_cases (h : dmaTxFrameOp s = .ok t) :
    t = s ∨ ∃ i w, i < s.cfg.n ∧ t = s.frameSent i w := by
  obtain ⟨-, rfl⟩ | ⟨hon, i, L, w, htail, ⟨-, rfl⟩ | ⟨hused, h⟩⟩ := dmaTxFrameOp_ok_iff.mp h
  · exact .inl rfl
  · exact .inl rfl
  · obtain ⟨hlt, -, -, -, -, -, rfl⟩ := sendFrame_inv hs hw hon htail hused h
    exact .inr ⟨i, w, hlt, rfl⟩

/-- No rule of the DMA agent takes a slot from software (10_state.md R62). -/
theorem dmaRule_keepsAvailable {e : DmaEvent} (h : bodyOf e.toInstr s = .ok t) : KeepsAvailable s t := by
  cases e with
  | rxFrame =>
    obtain rfl | ⟨i, w, hi, rfl⟩ := dmaRxFrameOp_cases hs hw h
    · exact .of_sameMem rfl
    · exact frameStored_keepsAvailable hi w
  | rxDrop =>
    obtain ⟨rfl, -⟩ := dmaRxDropOp_ok_iff.mp h
    exact .of_sameMem rfl
  | txFrame =>
    obtain rfl | ⟨i, w, hi, rfl⟩ := dmaTxFrameOp_cases hs hw h
    · exact .of_sameMem rfl
    · exact frameSent_keepsAvailable hi w
  | txStop => exact .of_sameMem (dmaTxStopOp_mem h)

end

/-- The fields that the handles' invariant reads, and what it needs of the words. -/
structure SameReserved (s t : State) : Prop where
  cfg : t.cfg = s.cfg
  hrx : t.hrx = s.hrx
  htx : t.htx = s.htx
  constructed : t.constructed = s.constructed
  rxCursor : t.rxCursor = s.rxCursor
  txCursor : t.txCursor = s.txCursor
  rxBorrow : t.rxBorrow = s.rxBorrow
  txClaim : t.txClaim = s.txClaim
  available : KeepsAvailable s t

theorem State.txState_of_constructed (h : s.constructed = true) : s.txState = .ready := by
  simp only [State.constructed, Bool.and_eq_true, beq_iff_eq, and_assoc] at h
  exact h.2.1

theorem State.txqSet_of_constructed (h : s.constructed = true) : s.txqSet = true := by
  simp only [State.constructed, Bool.and_eq_true, beq_iff_eq, and_assoc] at h
  exact h.2.2.2.2.1

theorem HandleInv.of_sameReserved (hh : HandleInv s) (hs : SetupInv s) (h : SameReserved s t) : HandleInv t := by
  obtain ⟨hcfg, hhrx, hhtx, hcon, hrc, htc, hrb, hcl, havailable⟩ := h
  constructor
  all_goals simp only [hcfg, hhrx, hhtx, hcon, hrc, htc, hrb, hcl]
  · exact hh.rxConstructed
  · exact hh.txConstructed
  · intro hheld c hc
    have hready := State.rxState_of_constructed (hh.rxConstructed hheld)
    exact havailable.rx c (hs.rxCursor_lt hready hc) (hh.rxReserved hheld c hc)
  · exact hh.rxActive
  · intro hlive c hc
    have hready := State.txState_of_constructed (hh.txConstructed (by rw [hlive]; nofun))
    exact havailable.tx c (hs.txCursor_lt hready hc) (hh.txReserved hlive c hc)
  · exact hh.txActive
  · exact hh.notBothActive

theorem handleInv_of_noHandle (h : s.noHandle) : HandleInv s := by
  obtain ⟨hrx, htx⟩ := h
  constructor <;> simp [hrx, htx]

/-- A rule behind the handle check that moves no handle leaves none held. -/
theorem exclusive_handleInv {i : Instr} {op : State → Attempt State} (hb : bodyOf i = exclusive i op)
    (hi : movesHandle i = false) (h : bodyOf i s = .ok t) : HandleInv t := by
  obtain ⟨hrx, htx⟩ := bodyOf_sameHandles hi h
  rw [hb] at h
  obtain ⟨hnrx, hntx, -⟩ := exclusive_ok_iff.mp h
  exact handleInv_of_noHandle ⟨hrx.trans hnrx, htx.trans hntx⟩

/-- The receive cursor's slot is software's where its word says so. -/
theorem rxOwned_of_cursorWord (hs : SetupInv s) {i : Instr} {c : Nat} {L : Layout} {w : Word}
    (h : rxCursorWord i s = .ok (c, L, w)) (hown : rxOwn w = true) :
    ∀ d, s.rxCursor = some d → rxOwned s (layoutFor s.cfg) d = true := by
  obtain ⟨-, hc, hL, -, hread⟩ := rxCursorWord_ok_iff.mp h
  obtain ⟨rfl, -⟩ := hs.layoutFor_eq hL
  intro d hd
  obtain rfl : c = d := Option.some.inj (hc.symm.trans hd)
  rw [rxOwned_of hread, hown]

/-- The transmit cursor's slot is software's where its word says so. -/
theorem txBusy_of_cursorWord (hs : SetupInv s) {c : Nat} {L : Layout} {w : Word}
    (h : txCursorWord s = .ok (c, L, w)) (hused : txUsed w = true) :
    ∀ d, s.txCursor = some d → txBusy s (layoutFor s.cfg) d = false := by
  obtain ⟨hc, hL, -, hread⟩ := txCursorWord_ok_iff.mp h
  obtain ⟨rfl, -⟩ := hs.layoutFor_eq hL
  intro d hd
  obtain rfl : c = d := Option.some.inj (hc.symm.trans hd)
  rw [txBusy_of hread, hused]
  rfl

theorem drvReceive_handleInv (hs : SetupInv s) (h : bodyOf .drvReceive s = .ok t) : HandleInv t := by
  obtain ⟨hnrx, hntx, hop⟩ := exclusive_ok_iff.mp h
  obtain ⟨hcon, c, L, rw, d, M, tw, hrx, htx, rfl⟩ := drvReceiveOp_ok_iff.mp hop
  split
  next hboth =>
    obtain ⟨hown, hused⟩ := Bool.and_eq_true_iff.mp hboth
    have hrxSlot := rxOwned_of_cursorWord hs hrx hown
    have htxSlot := txBusy_of_cursorWord hs htx hused
    exact {
      rxConstructed := fun _ => hcon
      txConstructed := fun _ => hcon
      rxReserved := fun _ => hrxSlot
      rxActive := nofun
      txReserved := fun _ => htxSlot
      txActive := nofun
      notBothActive := nofun }
  next => exact handleInv_of_noHandle ⟨hnrx, hntx⟩

theorem drvTransmit_handleInv (hs : SetupInv s) (h : bodyOf .drvTransmit s = .ok t) : HandleInv t := by
  obtain ⟨hnrx, hntx, hop⟩ := exclusive_ok_iff.mp h
  obtain ⟨hcon, d, M, tw, htx, rfl⟩ := drvTransmitOp_ok_iff.mp hop
  split
  next hused =>
    have htxSlot := txBusy_of_cursorWord hs htx hused
    exact {
      rxConstructed := fun hheld => absurd hnrx hheld
      txConstructed := fun _ => hcon
      rxReserved := fun hheld => absurd hnrx hheld
      rxActive := fun hactive => absurd (hnrx.symm.trans hactive) nofun
      txReserved := fun _ => htxSlot
      txActive := nofun
      notBothActive := nofun }
  next => exact handleInv_of_noHandle ⟨hnrx, hntx⟩

theorem rxhBegin_handleInv (hh : HandleInv s) (h : rxhBeginOp s = .ok t) : HandleInv t := by
  obtain ⟨hlive, hnot, u, hu, rfl⟩ := rxhBeginOp_ok_iff.mp h
  obtain ⟨-, c, L, w, hw, -, rfl⟩ := rxRecvNextOp_ok_iff.mp hu
  obtain ⟨-, hc, -⟩ := rxCursorWord_ok_iff.mp hw
  have hheld : s.hrx ≠ .none := by rw [hlive]; nofun
  exact { hh with
    rxConstructed := fun _ => hh.rxConstructed hheld
    rxReserved := fun _ => hh.rxReserved hheld
    rxActive := fun _ => hc.symm
    notBothActive := fun ⟨_, hactive⟩ => hnot hactive }

theorem rxhEnd_handleInv {r : Word} (hs : SetupInv s) (hw : RingWordsInv s) (hh : HandleInv s)
    (h : rxhEndOp r s = .ok t) : HandleInv t := by
  obtain ⟨-, u, hu, rfl⟩ := rxhEndOp_ok_iff.mp h
  obtain ⟨c, w, hlt, -, -, -, -, -, rfl⟩ := release_inv hs hw hu
  exact {
    rxConstructed := fun hheld => absurd rfl hheld
    txConstructed := hh.txConstructed
    rxReserved := fun hheld => absurd rfl hheld
    rxActive := nofun
    txReserved := fun hlive p hp => by
      have hready := State.txState_of_constructed (hh.txConstructed (by rw [show s.htx = .live from hlive]; nofun))
      exact (txBusy_congr ((wordsKept_rxd hlt).tx p (hs.txCursor_lt hready hp) not_false)).trans
        (hh.txReserved hlive p hp)
    txActive := hh.txActive
    notBothActive := nofun }

/-- The claim that a live transmit handle opens. -/
theorem claim_handleInv {len : Nat} {u : State} (hs : SetupInv s) (hw : RingWordsInv s) (hh : HandleInv s)
    (hlive : s.htx = .live) (hnot : s.hrx ≠ .active) (h : txGetNextBufferOp len s = .ok u) :
    HandleInv { u with htx := .active } := by
  obtain ⟨p, w, hlt, -, -, -, hp, -, -, -, rfl⟩ := claim_inv hs hw h
  have hcon := hh.txConstructed (by rw [hlive]; nofun)
  exact {
    rxConstructed := hh.rxConstructed
    txConstructed := fun _ => hcon
    rxReserved := fun hheld c hc =>
      (rxOwned_congr
        ((wordsKept_txd1 hlt).rx c (hs.rxCursor_lt (State.rxState_of_constructed hcon) hc) not_false)).trans
        (hh.rxReserved hheld c hc)
    rxActive := fun hactive => absurd hactive hnot
    txReserved := nofun
    txActive := fun _ => hp.symm
    notBothActive := fun ⟨hactive, _⟩ => hnot hactive }

theorem txhBegin_handleInv {len : Word} (hs : SetupInv s) (hw : RingWordsInv s) (hh : HandleInv s)
    (h : txhBeginOp len s = .ok t) : HandleInv t := by
  obtain ⟨hlive, hnot, ⟨-, u, hu, rfl⟩ | ⟨-, -, u, hu, rfl⟩ | ⟨-, -, rfl⟩⟩ := txhBeginOp_ok_iff.mp h
  · exact claim_handleInv hs hw hh hlive hnot hu
  · exact claim_handleInv (s := { s with oversizeMarker := true }) (hs.of_sameRings rfl) (hw.of_sameRings rfl)
      { hh with } hlive hnot hu
  · exact { hh with
      txConstructed := fun hheld => absurd rfl hheld
      txReserved := nofun
      txActive := nofun
      notBothActive := nofun }

theorem txhEnd_handleInv {r : Word} (hh : HandleInv s) (h : txhEndOp r s = .ok t) : HandleInv t := by
  obtain ⟨-, u, a, v, hu, hv, rfl⟩ := txhEndOp_ok_iff.mp h
  obtain ⟨-, _, _, -, -, -, -, rfl⟩ := txSendCompleteOp_ok_iff.mp hu
  obtain ⟨-, _, -, -, rfl⟩ := devKickOp_ok_iff.mp hv
  exact { hh with
    txConstructed := fun hheld => absurd rfl hheld
    txReserved := nofun
    txActive := nofun
    notBothActive := nofun }

theorem handleDrop_handleInv {which : Which} (hh : HandleInv s) (h : handleDropOp which s = .ok t) : HandleInv t := by
  cases which
  case rx =>
    obtain ⟨-, rfl⟩ := handleDropOp_rx_ok_iff.mp h
    exact { hh with
      rxConstructed := fun hheld => absurd rfl hheld
      rxReserved := fun hheld => absurd rfl hheld
      rxActive := nofun
      notBothActive := nofun }
  case tx =>
    obtain ⟨-, rfl⟩ := handleDropOp_tx_ok_iff.mp h
    exact { hh with
      txConstructed := fun hheld => absurd rfl hheld
      txReserved := nofun
      txActive := nofun
      notBothActive := nofun }

/-- A rule of the DMA agent moves no handle, cursor, borrow or claim, and takes no slot. -/
theorem dmaRule_handleInv {e : DmaEvent} (hs : SetupInv s) (hw : RingWordsInv s) (hh : HandleInv s)
    (h : bodyOf e.toInstr s = .ok t) : HandleInv t := by
  have havailable := dmaRule_keepsAvailable hs hw h
  cases e with
  | rxFrame =>
    obtain rfl | ⟨i, w, -, rfl⟩ := dmaRxFrameOp_cases hs hw h
    · exact hh
    · exact hh.of_sameReserved (t := s.frameStored i w) hs ⟨rfl, rfl, rfl, rfl, rfl, rfl, rfl, rfl, havailable⟩
  | rxDrop =>
    obtain ⟨rfl, -⟩ := dmaRxDropOp_ok_iff.mp h
    exact hh
  | txFrame =>
    obtain rfl | ⟨i, w, -, rfl⟩ := dmaTxFrameOp_cases hs hw h
    · exact hh
    · exact hh.of_sameReserved (t := s.frameSent i w) hs ⟨rfl, rfl, rfl, rfl, rfl, rfl, rfl, rfl, havailable⟩
  | txStop =>
    obtain ⟨-, rfl⟩ | ⟨-, _, _, _, -, rfl⟩ := dmaTxStopOp_ok_iff.mp h
    · exact hh
    · split
      · exact { hh with }
      · exact hh

theorem bodyOf_handleInv {i : Instr} (hharness : s.cfg.harness = false) (hs : SetupInv s) (hw : RingWordsInv s)
    (hh : HandleInv s) (h : bodyOf i s = .ok t) : HandleInv t := by
  cases i with
  | layout | rxSetup | rxRecvNext | rxMarkDone | txSetup | txGetNextBuffer _ | txSendComplete | dummySetup | drvInit
  | devSetRxqBase _ | devSetTxqBase _ | devSetTxq1Base _ => exact exclusive_handleInv rfl rfl h
  | drvReceive => exact drvReceive_handleInv hs h
  | drvTransmit => exact drvTransmit_handleInv hs h
  | rxhBegin => exact rxhBegin_handleInv hh h
  | rxhEnd r => exact rxhEnd_handleInv hs hw hh h
  | txhBegin len => exact txhBegin_handleInv hs hw hh h
  | txhEnd r => exact txhEnd_handleInv hh h
  | handleDrop which => exact handleDrop_handleInv hh h
  | rxAvail => obtain ⟨_, _, _, -, rfl⟩ := rxAvailOp_ok_iff.mp h; exact { hh with }
  | txAvail => obtain ⟨-, _, _, _, -, rfl⟩ := txAvailOp_ok_iff.mp h; exact { hh with }
  | drvCaps | drvClassifyIrq | devClearIrq => cases h; exact { hh with }
  | bufRd ring off => obtain ⟨_, _, -, -, -, rfl⟩ := bufRdOp_ok_iff.mp h; exact { hh with }
  | bufWr ring off byte =>
    obtain ⟨k, ht⟩ := bufWr_inv hs h
    have havailable := KeepsAvailable.of_wordsKept k
    rw [ht] at havailable ⊢
    exact hh.of_sameReserved hs ⟨rfl, rfl, rfl, rfl, rfl, rfl, rfl, rfl, havailable⟩
  | devKick pa => obtain ⟨-, _, -, -, rfl⟩ := devKickOp_ok_iff.mp h; exact { hh with }
  | simRxSetOwn idx => exact absurd (hharness.symm.trans (simRxSetOwnOp_ok_iff.mp h).1) nofun
  | simTxSetOwn idx => exact absurd (hharness.symm.trans (simTxSetOwnOp_ok_iff.mp h).1) nofun
  | dmaRxFrame => exact dmaRule_handleInv (e := .rxFrame) hs hw hh h
  | dmaRxDrop => exact dmaRule_handleInv (e := .rxDrop) hs hw hh h
  | dmaTxFrame => exact dmaRule_handleInv (e := .txFrame) hs hw hh h
  | dmaTxStop => exact dmaRule_handleInv (e := .txStop) hs hw hh h

/-- The ring invariants of a run without the harness, handles aside. -/
structure OccupancyInv (s : State) : Prop where
  harness : s.cfg.harness = false
  setup : SetupInv s
  words : RingWordsInv s
  rx : RxOccupancy s
  tx : TxOccupancy s

theorem RingEffect.occupancyInv (h : RingEffect s t) (hi : OccupancyInv s) : OccupancyInv t := by
  obtain ⟨hharness, hs, hw, hrx, htx⟩ := hi
  exact ⟨by rw [h.fixed.cfg, hharness], h.setupInv hs, h.ringWords hs hw, h.rxOccupancy hharness hs hw hrx,
    h.txOccupancy hharness hs hw htx⟩

/-- Every rule keeps every invariant of a run without the harness. -/
theorem bodyOf_ringInv {i : Instr} (h : bodyOf i s = .ok t) (hharness : s.cfg.harness = false) (hr : RingInv s) :
    t.cfg.harness = false ∧ RingInv t := by
  obtain ⟨hs, hw, hrx, htx, hh⟩ := hr
  obtain ⟨hharness', hs', hw', hrx', htx'⟩ :=
    (bodyOf_effects h).keeps (fun _ _ he => he.occupancyInv) ⟨hharness, hs, hw, hrx, htx⟩
  exact ⟨hharness', hs', hw', hrx', htx', bodyOf_handleInv hharness hs hw hh h⟩

/-- The invariants do not speak of `pc`, the fault record or the environment's choices. -/
theorem RingInv.frame (hr : RingInv s) {pc : Nat} {f : Option FaultRecord} {a : List Turn} {n : Nat} {d : Draw} :
    RingInv { s with pc := pc, fault := f, agenda := a, turn := n, draw := d } :=
  ⟨hr.setup.frame, hr.words.frame, hr.rx, hr.tx, { hr.handles with }⟩

theorem resetWith_ringInv (c : Config) : RingInv (State.resetWith c) where
  setup := by
    constructor
    case memWf => exact List.Pairwise.nil
    all_goals simp [State.resetWith]
  words := ⟨nofun, nofun, nofun⟩
  rx := nofun
  tx := nofun
  handles := handleInv_of_noHandle ⟨rfl, rfl⟩

end Sys2Proof.Machine
end

section
/-! PROOFS. Availability is stable (10_state.md R62), the handles reserve their slots (44_driver.md R260), and the
invariants hold at reset (10_state.md R63). -/

open Sys2Proof Sys2Proof.Machine

/-- Settles O54: a rule of the DMA agent rewrites an ownership bit only to software's, and a raised fault none. -/
theorem availabilityIsStable : Obligations.AvailabilityIsStable := by
  intro e s t hs hw h i hi
  rcases exec_cases h with ⟨-, u, hu, rfl⟩ | ⟨r, -, rfl⟩
  · have hdone : Instr.done e.toInstr u = u := by cases e <;> rfl
    have havailable := dmaRule_keepsAvailable hs hw hu
    rw [hdone]
    exact ⟨fun _ => havailable.rx i hi, fun _ => havailable.tx i hi⟩
  · exact ⟨fun _ hown => hown, fun _ hfree => hfree⟩

/-- Settles O53: the handles' invariant is kept together with the others, rule by rule. -/
theorem handlesReserveSlots : Obligations.HandlesReserveSlots := fun _ _ hharness hr h =>
  (step_keeps (P := fun u => u.cfg.harness = false ∧ RingInv u)
    (fun _ _ _ _ _ _ ⟨hharness, hr⟩ => ⟨hharness, hr.frame⟩)
    (fun _ _ _ hu ⟨hharness, hr⟩ => bodyOf_ringInv hu hharness hr) h ⟨hharness, hr⟩).2.handles

/-- Settles O11: nothing is set up at reset and no handle is held. -/
theorem resetMeetsInvariants : Obligations.ResetMeetsInvariants :=
  ⟨resetWith_ringInv, resetWith_ringInv _⟩

end

section
/-! SUPPORT. Rules that complete (45_dma_engine.md R295, R296; 44_driver.md R260), and rules that end in no
`READ_UNWRITTEN` (60_exceptions.md R352), where the setup order and the words are kept. -/

namespace Sys2Proof.Machine

variable {s : State}

/-- An instruction whose rule completes leaves no fault. -/
theorem exec_completes {i : Instr} {u : State} (hf : s.fault = none) (h : bodyOf i s = .ok u) :
    ∃ t, exec i s = .next t ∧ t.fault = none ∧ t.st = u.st := by
  refine ⟨Instr.done i u, exec_of_ok hf h, by rw [Instr.done_fault, (bodyOf_fixed h).fault, hf], ?_⟩
  unfold Instr.done
  split <;> rfl

theorem exec_completes_or {i : Instr} {P : State → Prop} (hf : s.fault = none) (h : ∃ u, bodyOf i s = .ok u) :
    ∃ t, exec i s = .next t ∧ (t.fault = none ∨ P t) := by
  obtain ⟨u, hu⟩ := h
  obtain ⟨t, ht, hfault, -⟩ := exec_completes hf hu
  exact ⟨t, ht, .inl hfault⟩

section
variable (hs : SetupInv s) (hw : RingWordsInv s)
include hs hw

theorem dmaRxFrameOp_completes : ∃ t, dmaRxFrameOp s = .ok t := by
  cases hon : s.rxEnabled with
  | false => exact ⟨s, dmaRxFrameOp_ok_iff.mpr (.inl ⟨hon, rfl⟩)⟩
  | true =>
    obtain ⟨i, w, hlt, hr, -, hok, -, hhead⟩ := rxHead_of_inv hs hw hon
    have hstore := dmaStoreFrame_of_ok (hs.rx_layout hr).2 hlt hok
    cases hown : rxOwn w with
    | true => exact ⟨s, dmaRxFrameOp_ok_iff.mpr (.inr ⟨hon, i, _, w, hhead, .inl ⟨hown, rfl⟩⟩)⟩
    | false => exact ⟨_, dmaRxFrameOp_ok_iff.mpr (.inr ⟨hon, i, _, w, hhead, .inr ⟨hown, hstore⟩⟩)⟩

theorem dmaRxDropOp_completes : ∃ t, dmaRxDropOp s = .ok t := by
  refine ⟨s, dmaRxDropOp_ok_iff.mpr ⟨rfl, fun hon => ?_⟩⟩
  obtain ⟨i, w, -, -, -, -, -, hhead⟩ := rxHead_of_inv hs hw hon
  exact ⟨_, hhead⟩

theorem dmaTxStopOp_completes : ∃ t, dmaTxStopOp s = .ok t := by
  cases hon : s.txRunning with
  | false => exact ⟨s, dmaTxStopOp_ok_iff.mpr (.inl ⟨hon, rfl⟩)⟩
  | true =>
    obtain ⟨i, w, -, -, -, -, -, htail⟩ := txTail_of_inv hs hw hon
    exact ⟨_, dmaTxStopOp_ok_iff.mpr (.inr ⟨hon, i, _, w, htail, rfl⟩)⟩

/-- `DMA_TX_FRAME` completes, or finds the claimed slot. -/
theorem dmaTxFrameOp_completes :
    (∃ t, dmaTxFrameOp s = .ok t) ∨ ∃ k, s.txRunning = true ∧ s.txClaim = some k ∧ s.hwTxIdx = some k.slot ∧
      dmaTxFrameOp s = .error (.raise (.txDmaBeforeCommit k.slot)) := by
  cases hon : s.txRunning with
  | false => exact .inl ⟨s, dmaTxFrameOp_ok_iff.mpr (.inl ⟨hon, rfl⟩)⟩
  | true =>
    obtain ⟨i, w, hlt, hr, -, hok, hi, htail⟩ := txTail_of_inv hs hw hon
    cases hused : txUsed w with
    | true => exact .inl ⟨s, dmaTxFrameOp_ok_iff.mpr (.inr ⟨hon, i, _, w, htail, .inl ⟨hused, rfl⟩⟩)⟩
    | false =>
      by_cases hclaim : s.txClaim.map Claim.slot = some i
      · obtain ⟨k, hk, rfl⟩ := Option.map_eq_some_iff.mp hclaim
        refine .inr ⟨k, rfl, hk, hi, ?_⟩
        unfold dmaTxFrameOp dmaSendFrame requireCommitted
        rw [if_pos hon, htail, Attempt.ok_bind]
        simp only [hused, Bool.false_eq_true, if_false]
        exact require_bind_of_not _ _ (not_not.mpr hclaim)
      · have hsend := dmaSendFrame_of_ok (hs.tx_layout hr).2 hlt (hw.txAddr hr hlt) hok hused hclaim
        exact .inl ⟨_, dmaTxFrameOp_ok_iff.mpr (.inr ⟨hon, i, _, w, htail, .inr ⟨hused, hsend⟩⟩)⟩

end

/-- A rule that does not end in `READ_UNWRITTEN`. -/
def ReadsWritten {α : Type} (x : Attempt α) : Prop := ∀ u, x ≠ .error (.raise (.readUnwritten u))

theorem ReadsWritten.ok {α : Type} {x : Attempt α} {a : α} (h : x = .ok a) : ReadsWritten x := by
  rintro u hu
  cases h.symm.trans hu

theorem ReadsWritten.bind {α β : Type} {x : Attempt α} {f : α → Attempt β} (hx : ReadsWritten x)
    (hf : ∀ a, x = .ok a → ReadsWritten (f a)) : ReadsWritten (x >>= f) := by
  intro u hu
  obtain h | ⟨a, ha, h⟩ := Attempt.bind_error_iff.mp hu
  · exact hx u h
  · exact hf a ha u h

/-- After a check that raises another fault. -/
theorem ReadsWritten.require_bind {α : Type} {p : Prop} [Decidable p] {r : FaultRecord} {f : Unit → Attempt α}
    (hr : ∀ u, r ≠ .readUnwritten u) (hf : p → ReadsWritten (f ())) : ReadsWritten (require p r >>= f) := by
  by_cases hp : p
  · rw [require_bind_of _ _ hp]
    exact hf hp
  · rw [require_bind_of_not _ _ hp]
    intro u hu
    cases hu
    exact hr u rfl

/-- After a read that completes. -/
theorem ReadsWritten.ok_bind {α β : Type} {x : Attempt α} {a : α} {f : α → Attempt β} (h : x = .ok a)
    (hf : ReadsWritten (f a)) : ReadsWritten (x >>= f) := by
  rw [h, Attempt.ok_bind]
  exact hf

theorem storeBytes_readsWritten (off : Nat) (bs : List Byte) : ReadsWritten (s.storeBytes off bs) := by
  intro u hu
  unfold State.storeBytes at hu
  split at hu <;> cases hu

theorem requireAligned_readsWritten (L : Layout) : ReadsWritten (requireAligned L) := by
  intro u hu
  unfold requireAligned at hu
  split at hu <;> cases hu

theorem exclusive_readsWritten {i : Instr} {op : State → Attempt State} (h : ReadsWritten (op s)) :
    ReadsWritten (exclusive i op s) := .require_bind nofun fun _ => h

theorem layoutOp_readsWritten : ReadsWritten (layoutOp s) :=
  .require_bind nofun fun _ => .require_bind nofun fun _ => .require_bind nofun fun _ =>
    .bind (requireAligned_readsWritten _) fun _ _ => .require_bind nofun fun _ => .require_bind nofun fun _ => .ok rfl

theorem requireNoBorrow_readsWritten : ReadsWritten (requireNoBorrow s) := by
  intro u hu
  unfold requireNoBorrow at hu
  split at hu <;> cases hu

theorem requireNoClaim_readsWritten : ReadsWritten (requireNoClaim s) := by
  intro u hu
  unfold requireNoClaim at hu
  split at hu <;> cases hu

section
variable (hs : SetupInv s)
include hs

theorem rxSetupOp_readsWritten : ReadsWritten (rxSetupOp s) :=
  .require_bind nofun fun hset => .require_bind nofun fun _ =>
    .ok_bind (State.layoutOf_ok_iff.mpr (hs.layoutIs hset).1) (.bind (storeBytes_readsWritten _ _) fun _ _ => .ok rfl)

theorem txSetupOp_readsWritten : ReadsWritten (txSetupOp s) :=
  .require_bind nofun fun hset => .require_bind nofun fun _ =>
    .ok_bind (State.layoutOf_ok_iff.mpr (hs.layoutIs hset).1) (.bind (storeBytes_readsWritten _ _) fun _ _ => .ok rfl)

theorem dummySetupOp_readsWritten : ReadsWritten (dummySetupOp s) :=
  .require_bind nofun fun hset => .require_bind nofun fun _ =>
    .ok_bind (State.layoutOf_ok_iff.mpr (hs.layoutIs hset).1)
      (.bind (storeBytes_readsWritten _ _) fun _ _ => .bind (storeBytes_readsWritten _ _) fun _ _ => .ok rfl)

theorem devSetRxqBaseOp_readsWritten (pa : Word) : ReadsWritten (devSetRxqBaseOp pa s) :=
  .require_bind nofun fun _ => .require_bind nofun fun hr =>
    .ok_bind (State.layoutOf_ok_iff.mpr (hs.rx_layout hr).1) (.require_bind nofun fun _ => .ok rfl)

theorem devSetTxqBaseOp_readsWritten (pa : Word) : ReadsWritten (devSetTxqBaseOp pa s) :=
  .require_bind nofun fun _ => .require_bind nofun fun hr =>
    .ok_bind (State.layoutOf_ok_iff.mpr (hs.tx_layout hr).1) (.require_bind nofun fun _ => .ok rfl)

theorem devSetTxq1BaseOp_readsWritten (pa : Word) : ReadsWritten (devSetTxq1BaseOp pa s) :=
  .require_bind nofun fun _ => .require_bind nofun fun hr =>
    .ok_bind (State.layoutOf_ok_iff.mpr (hs.layoutIs (hs.dmyNeedsLayout hr)).1) (.require_bind nofun fun _ => .ok rfl)

theorem devKickOp_readsWritten (pa : Word) : ReadsWritten (devKickOp pa s) :=
  .require_bind nofun fun hset =>
    .ok_bind (State.layoutOf_ok_iff.mpr (hs.tx_layout (hs.txSet hset).1).1) (.require_bind nofun fun _ => .ok rfl)

/-- The seven steps of `DRV_INIT`, each from the setup order that the one before keeps. -/
theorem drvInitOp_readsWritten : ReadsWritten (drvInitOp s) := by
  refine .bind layoutOp_readsWritten fun s1 h1 => ?_
  have hs1 := layoutOp_setupInv hs h1
  refine .bind (rxSetupOp_readsWritten hs1) fun s2 h2 => ?_
  have hs2 := rxSetupOp_setupInv hs1 h2
  refine .bind (txSetupOp_readsWritten hs2) fun s3 h3 => ?_
  have hs3 := txSetupOp_setupInv hs2 h3
  refine .bind (dummySetupOp_readsWritten hs3) fun s4 h4 => ?_
  have hs4 := dummySetupOp_setupInv hs3 h4
  have hset : s4.layoutSet = true := by
    obtain ⟨hset, -, _, -, -, rfl⟩ := dummySetupOp_ok_iff.mp h4
    exact hset
  refine .ok_bind (State.layoutOf_ok_iff.mpr (hs4.layoutIs hset).1) ?_
  refine .bind (devSetRxqBaseOp_readsWritten hs4 _) fun s5 h5 => ?_
  have hs5 := devSetRxqBaseOp_setupInv hs4 h5
  refine .bind (devSetTxqBaseOp_readsWritten hs5 _) fun s6 h6 => ?_
  have hs6 := devSetTxqBaseOp_setupInv hs5 h6
  exact .bind (devSetTxq1BaseOp_readsWritten hs6 _) fun _ _ => .ok rfl

theorem txSendCompleteOp_readsWritten : ReadsWritten (txSendCompleteOp s) := by
  refine .require_bind nofun fun hr => ?_
  obtain ⟨c, -, hc⟩ := hs.txCursorLegal hr
  exact .ok_bind (known_ok_iff.mpr hc) (.require_bind nofun fun _ =>
    .ok_bind (State.layoutOf_ok_iff.mpr (hs.tx_layout hr).1) (.ok rfl))

/-- A slice is open only where its ring, and so the layout, is set up. -/
theorem sliceByte_readsWritten (ring : Ring) (off : Nat) : ReadsWritten (sliceByte ring off s) := by
  unfold sliceByte
  split
  next i hslot =>
    have hL : s.layout = some (layoutFor s.cfg) := by
      cases ring with
      | rx => exact (hs.rx_layout (hs.borrowAtCursor i (sliceSlot?_rx_eq_some_iff.mp hslot).1).1).1
      | tx =>
        obtain ⟨k, hk, -, -⟩ := sliceSlot?_tx_eq_some_iff.mp hslot
        exact (hs.tx_layout (hs.claimAtCursor k hk).1).1
    exact .ok_bind (State.layoutOf_ok_iff.mpr hL) (.ok rfl)
  next => intro u hu; cases hu

section
variable (hw : RingWordsInv s)
include hw

theorem rxCursorWord_readsWritten (i : Instr) : ReadsWritten (rxCursorWord i s) := by
  cases hr : s.rxState with
  | uninit =>
    intro u hu
    cases (rxCursorWord_of_uninit i hr).symm.trans hu
  | ready =>
    obtain ⟨c, w, -, -, -, -, hword⟩ := rxCursorWord_of_inv hs hw hr i
    exact .ok hword

theorem txCursorWord_readsWritten (hr : s.txState = .ready) : ReadsWritten (txCursorWord s) := by
  obtain ⟨c, w, -, -, -, -, hword⟩ := txCursorWord_of_inv hs hw hr
  exact .ok hword

theorem rxRecvNextOp_readsWritten : ReadsWritten (rxRecvNextOp s) :=
  .require_bind nofun fun _ => .bind requireNoBorrow_readsWritten fun _ _ =>
    .bind (rxCursorWord_readsWritten hs hw _) fun _ _ => .require_bind nofun fun _ => .ok rfl

theorem rxMarkDoneOp_readsWritten : ReadsWritten (rxMarkDoneOp s) :=
  .bind (rxCursorWord_readsWritten hs hw _) fun _ _ => .require_bind nofun fun _ =>
    .bind (storeBytes_readsWritten _ _) fun _ _ => .ok rfl

theorem txGetNextBufferOp_readsWritten (len : Nat) : ReadsWritten (txGetNextBufferOp len s) :=
  .require_bind nofun fun hr => .bind requireNoClaim_readsWritten fun _ _ => .require_bind nofun fun _ =>
    .bind (txCursorWord_readsWritten hs hw hr) fun _ _ => .require_bind nofun fun _ =>
      .bind (storeBytes_readsWritten _ _) fun _ _ => .ok rfl

theorem drvReceiveOp_readsWritten : ReadsWritten (drvReceiveOp s) :=
  .require_bind nofun fun hcon => .bind (rxCursorWord_readsWritten hs hw _) fun _ _ =>
    .bind (txCursorWord_readsWritten hs hw (State.txState_of_constructed hcon)) fun _ _ => .ok rfl

theorem drvTransmitOp_readsWritten : ReadsWritten (drvTransmitOp s) :=
  .require_bind nofun fun hcon =>
    .bind (txCursorWord_readsWritten hs hw (State.txState_of_constructed hcon)) fun _ _ => .ok rfl

theorem txhBeginOp_readsWritten (len : Word) : ReadsWritten (txhBeginOp len s) := by
  have hmark : SameRings s { s with oversizeMarker := true } := rfl
  refine .require_bind nofun fun _ => .require_bind nofun fun _ => ?_
  split
  · exact .bind (txGetNextBufferOp_readsWritten hs hw _) fun _ _ => .ok rfl
  · split
    · exact .bind (txGetNextBufferOp_readsWritten (hs.of_sameRings hmark) (hw.of_sameRings hmark) _) fun _ _ => .ok rfl
    · exact .ok rfl

theorem simRxSetOwnOp_readsWritten (idx : Word) : ReadsWritten (simRxSetOwnOp idx s) := by
  refine .require_bind nofun fun hlegal => .require_bind nofun fun hr => ?_
  have hlt := (simRxSetOwn_wellFormed_iff.mp hlegal).2
  obtain ⟨hL, haccepts⟩ := hs.rx_layout hr
  obtain ⟨w, hread, -⟩ := hw.rxWord hr hlt
  exact .ok_bind (State.layoutOf_ok_iff.mpr hL)
    (.ok_bind (State.loadWord_ok_iff.mpr ⟨rxd_inside haccepts hlt, hread⟩) (storeBytes_readsWritten _ _))

theorem simTxSetOwnOp_readsWritten (idx : Word) : ReadsWritten (simTxSetOwnOp idx s) := by
  refine .require_bind nofun fun hlegal => .require_bind nofun fun hr => ?_
  have hlt := (simTxSetOwn_wellFormed_iff.mp hlegal).2
  obtain ⟨hL, haccepts⟩ := hs.tx_layout hr
  obtain ⟨w, hread, -⟩ := hw.txWord hr hlt
  exact .ok_bind (State.layoutOf_ok_iff.mpr hL)
    (.ok_bind (State.loadWord_ok_iff.mpr ⟨txd1_inside haccepts hlt, hread⟩) (storeBytes_readsWritten _ _))

theorem dmaTxFrameOp_readsWritten : ReadsWritten (dmaTxFrameOp s) := by
  obtain ⟨t, h⟩ | ⟨k, -, -, -, h⟩ := dmaTxFrameOp_completes hs hw
  · exact .ok h
  · intro u hu
    cases h.symm.trans hu

/-- Only `BUF_RD` reads a byte that setup has not written (60_exceptions.md R352). -/
theorem bodyOf_readsWritten {i : Instr} (hi : ∀ ring off, i ≠ .bufRd ring off) : ReadsWritten (bodyOf i s) := by
  cases i with
  | bufRd ring off => exact absurd rfl (hi ring off)
  | layout => exact exclusive_readsWritten layoutOp_readsWritten
  | rxSetup => exact exclusive_readsWritten (rxSetupOp_readsWritten hs)
  | rxRecvNext => exact exclusive_readsWritten (rxRecvNextOp_readsWritten hs hw)
  | rxMarkDone => exact exclusive_readsWritten (rxMarkDoneOp_readsWritten hs hw)
  | txSetup => exact exclusive_readsWritten (txSetupOp_readsWritten hs)
  | txGetNextBuffer len => exact exclusive_readsWritten (txGetNextBufferOp_readsWritten hs hw _)
  | txSendComplete => exact exclusive_readsWritten (.bind (txSendCompleteOp_readsWritten hs) fun _ _ => .ok rfl)
  | dummySetup => exact exclusive_readsWritten (dummySetupOp_readsWritten hs)
  | drvInit => exact exclusive_readsWritten (drvInitOp_readsWritten hs)
  | drvReceive => exact exclusive_readsWritten (drvReceiveOp_readsWritten hs hw)
  | drvTransmit => exact exclusive_readsWritten (drvTransmitOp_readsWritten hs hw)
  | devSetRxqBase pa => exact exclusive_readsWritten (devSetRxqBaseOp_readsWritten hs pa)
  | devSetTxqBase pa => exact exclusive_readsWritten (devSetTxqBaseOp_readsWritten hs pa)
  | devSetTxq1Base pa => exact exclusive_readsWritten (devSetTxq1BaseOp_readsWritten hs pa)
  | rxAvail => exact .bind (rxCursorWord_readsWritten hs hw _) fun _ _ => .ok rfl
  | txAvail => exact .require_bind nofun fun hr => .bind (txCursorWord_readsWritten hs hw hr) fun _ _ => .ok rfl
  | rxhBegin =>
    exact .require_bind nofun fun _ => .require_bind nofun fun _ =>
      .bind (rxRecvNextOp_readsWritten hs hw) fun _ _ => .ok rfl
  | rxhEnd r => exact .require_bind nofun fun _ => .bind (rxMarkDoneOp_readsWritten hs hw) fun _ _ => .ok rfl
  | txhBegin len => exact txhBeginOp_readsWritten hs hw len
  | txhEnd r =>
    exact .require_bind nofun fun _ => .bind (txSendCompleteOp_readsWritten hs) fun _ hu =>
      .bind (devKickOp_readsWritten (txSendCompleteOp_setupInv hs hu) _) fun _ _ => .ok rfl
  | handleDrop which => cases which <;> exact .require_bind nofun fun _ => .ok rfl
  | drvCaps | drvClassifyIrq | devClearIrq => exact .ok rfl
  | bufWr ring off byte =>
    exact .bind (sliceByte_readsWritten hs ring _) fun _ _ => .bind (storeBytes_readsWritten _ _) fun _ _ => .ok rfl
  | devKick pa => exact devKickOp_readsWritten hs pa
  | simRxSetOwn idx => exact simRxSetOwnOp_readsWritten hs hw idx
  | simTxSetOwn idx => exact simTxSetOwnOp_readsWritten hs hw idx
  | dmaRxFrame => exact .ok (dmaRxFrameOp_completes hs hw).choose_spec
  | dmaRxDrop => exact .ok (dmaRxDropOp_completes hs hw).choose_spec
  | dmaTxFrame => exact dmaTxFrameOp_readsWritten hs hw
  | dmaTxStop => exact .ok (dmaTxStopOp_completes hs hw).choose_spec

end

/-- What `BUF_RD` says it read is an unwritten byte of the Region. -/
theorem bufRdOp_readUnwritten {ring : Ring} {off : BitVec 16} {u : Unwritten}
    (h : bufRdOp ring off s = .error (.raise (.readUnwritten u))) : ∃ a, u = .region a ∧ s.mem.read a = none := by
  obtain hslice | ⟨a, -, h⟩ := Attempt.bind_error_iff.mp h
  · exact absurd hslice (sliceByte_readsWritten hs ring _ u)
  · obtain hload | ⟨b, -, h⟩ := Attempt.bind_error_iff.mp h
    · unfold State.loadByte at hload
      split at hload
      · obtain ⟨hnone, hu⟩ := known_error_iff.mp hload
        cases hu
        exact ⟨a, rfl, hnone⟩
      · cases hload
    · cases h

end

end Sys2Proof.Machine
end

section
/-! PROOFS. The DMA steps complete (45_dma_engine.md R295, R296), and only `BUF_RD` reads what nothing has written
(60_exceptions.md R352). -/

open Sys2Proof Sys2Proof.Machine

/-- Settles O56: each rule of the DMA agent completes on the words setup wrote, but for the check of R305. -/
theorem dmaStepsComplete : Obligations.DmaStepsComplete := by
  intro e s hf hs hw
  cases e with
  | rxFrame => exact exec_completes_or hf (dmaRxFrameOp_completes hs hw)
  | rxDrop => exact exec_completes_or hf (dmaRxDropOp_completes hs hw)
  | txStop => exact exec_completes_or hf (dmaTxStopOp_completes hs hw)
  | txFrame =>
    obtain h | ⟨k, hon, hk, htail, hraise⟩ := dmaTxFrameOp_completes hs hw
    · exact exec_completes_or (i := .dmaTxFrame) hf h
    · exact ⟨_, exec_of_raise (i := .dmaTxFrame) hf hraise, .inr ⟨k, rfl, hon, hk, htail, rfl⟩⟩

/-- Settles O57: every other rule reads state that setup has written, and `BUF_RD` names the byte it found unwritten. -/
theorem onlyBufRdReadsUnwritten : Obligations.OnlyBufRdReadsUnwritten := by
  intro i s t u hs hw h hfault
  have hraise : bodyOf i s = .error (.raise (.readUnwritten u)) := by
    rcases exec_cases h with ⟨hnone, -⟩ | ⟨r, hr, rfl⟩
    · rw [hnone] at hfault; cases hfault
    · cases hfault; exact hr
  by_cases hi : ∃ ring off, i = .bufRd ring off
  · obtain ⟨ring, off, rfl⟩ := hi
    obtain ⟨a, hu, hnone⟩ := bufRdOp_readUnwritten hs hraise
    exact ⟨ring, off, a, rfl, hu, hnone⟩
  · exact absurd hraise (bodyOf_readsWritten hs hw (fun ring off e => hi ⟨ring, off, e⟩) u)

end

section
/-! SUPPORT. What the invariants give a held handle and the transmit engine (44_driver.md R260; 10_state.md R61;
45_dma_engine.md R304 to R307). -/

namespace Sys2Proof.Machine

variable {s : State}

/-- A reserved RX slot's word says that it is software's. -/
theorem rxOwn_of_rxOwned {L : Layout} {i : Nat} {w : Word} (hread : s.mem.readWord (L.rxdOff i) = some w)
    (h : rxOwned s L i = true) : rxOwn w = true := (rxOwned_of hread).symm.trans h

/-- A TX slot that is not in flight has a word that says so. -/
theorem txUsed_of_not_txBusy {L : Layout} {i : Nat} {w : Word} (hread : s.mem.readWord (L.txd1Off i) = some w)
    (h : txBusy s L i = false) : txUsed w = true := by
  rw [txBusy_of hread, Bool.not_eq_false'] at h
  exact h

/-- No claim is open under a live transmit handle: a claimed slot is in flight and a reserved one is not. -/
theorem txClaim_of_live (hr : RingInv s) (hlive : s.htx = .live) : s.txClaim = none := by
  obtain ⟨hs, -, -, htx, hh⟩ := hr
  have hready := State.txState_of_constructed (hh.txConstructed (by rw [hlive]; nofun))
  obtain ⟨p, hlt, hp⟩ := hs.txCursorLegal hready
  obtain ⟨⟨-, -, hrun⟩, hlast⟩ := txOccupancy_iff.mp htx hready p hp
  refine Option.eq_none_iff_forall_ne_some.mpr fun k hk => ?_
  have hcount : (p + s.cfg.n - s.hwTxIdx.getD 0) % s.cfg.n + 1 = txBusyCount s (layoutFor s.cfg) := (hlast k hk).2
  have hbusy : txBusy s (layoutFor s.cfg) p = true := by
    rw [hrun p hlt]
    exact decide_eq_true (by rw [← txBusyCount]; omega)
  exact absurd (hbusy.symm.trans (hh.txReserved hlive p hp)) nofun

theorem rxhBegin_completes (hr : RingInv s) (hlive : s.hrx = .live) (hnot : s.htx ≠ .active)
    (hborrow : s.rxBorrow = none) : ∃ u, rxhBeginOp s = .ok u ∧ u.st = some .ok := by
  obtain ⟨hs, hw, -, -, hh⟩ := hr
  have hheld : s.hrx ≠ .none := by rw [hlive]; nofun
  have hready := State.rxState_of_constructed (hh.rxConstructed hheld)
  obtain ⟨c, w, -, hread, -, hc, hword⟩ := rxCursorWord_of_inv hs hw hready .rxRecvNext
  have hown := rxOwn_of_rxOwned hread (hh.rxReserved hheld c hc)
  exact ⟨_, rxhBeginOp_ok_iff.mpr ⟨hlive, hnot, _, rxRecvNextOp_ok_iff.mpr ⟨hborrow, c, _, w, hword, hown, rfl⟩, rfl⟩,
    rfl⟩

theorem rxhEnd_completes (hr : RingInv s) (r : Word) (hactive : s.hrx = .active) :
    ∃ u, rxhEndOp r s = .ok u ∧ u.st = some .ok := by
  obtain ⟨hs, hw, -, -, hh⟩ := hr
  have hheld : s.hrx ≠ .none := by rw [hactive]; nofun
  have hready := State.rxState_of_constructed (hh.rxConstructed hheld)
  obtain ⟨c, w, -, hread, -, hc, hword⟩ := rxCursorWord_of_inv hs hw hready .rxMarkDone
  have hown := rxOwn_of_rxOwned hread (hh.rxReserved hheld c hc)
  exact ⟨_, rxhEndOp_ok_iff.mpr ⟨hactive, _, rxMarkDoneOp_ok_iff.mpr ⟨c, _, w, hword, hown, rfl⟩, rfl⟩, rfl⟩

/-- A claim at the slot that a live transmit handle reserves. -/
theorem txGetNextBuffer_completes (hr : RingInv s) (hlive : s.htx = .live) {len : Nat} (hlen : len ≤ s.cfg.mtu) :
    ∃ u, txGetNextBufferOp len s = .ok u ∧ u.st = some .ok := by
  have hnone := txClaim_of_live hr hlive
  obtain ⟨hs, hw, -, -, hh⟩ := hr
  have hready := State.txState_of_constructed (hh.txConstructed (by rw [hlive]; nofun))
  obtain ⟨c, w, -, hread, -, hc, hword⟩ := txCursorWord_of_inv hs hw hready
  have hused := txUsed_of_not_txBusy hread (hh.txReserved hlive c hc)
  exact ⟨_, txGetNextBufferOp_ok_iff.mpr ⟨hready, hnone, hlen, c, _, w, hword, hused, rfl⟩, rfl⟩

/-- The mark of a truncated length is in no invariant. -/
theorem RingInv.mark (hr : RingInv s) : RingInv { s with oversizeMarker := true } :=
  ⟨hr.setup.of_sameRings rfl, hr.words.of_sameRings rfl, hr.rx, hr.tx, { hr.handles with }⟩

theorem txhBegin_completes (hr : RingInv s) (len : Word) (hlive : s.htx = .live) (hnot : s.hrx ≠ .active) :
    ∃ u, txhBeginOp len s = .ok u ∧ (u.st = some .ok ∨ u.st = some .rejected) := by
  by_cases hfits : lenOf len ≤ s.cfg.mtu
  · obtain ⟨u, hu, hst⟩ := txGetNextBuffer_completes hr hlive hfits
    exact ⟨_, txhBeginOp_ok_iff.mpr ⟨hlive, hnot, .inl ⟨hfits, u, hu, rfl⟩⟩, .inl hst⟩
  · have hlong := Nat.not_le.mp hfits
    cases hpolicy : s.cfg.oversizePolicy with
    | truncate =>
      obtain ⟨u, hu, hst⟩ := txGetNextBuffer_completes hr.mark hlive (Nat.le_refl s.cfg.mtu)
      exact ⟨_, txhBeginOp_ok_iff.mpr ⟨hlive, hnot, .inr (.inl ⟨hlong, hpolicy, u, hu, rfl⟩)⟩, .inl hst⟩
    | reject => exact ⟨_, txhBeginOp_ok_iff.mpr ⟨hlive, hnot, .inr (.inr ⟨hlong, hpolicy, rfl⟩)⟩, .inr rfl⟩

/-- A slot's descriptor address fits a register, so that a kick with it is accepted (45_dma_engine.md R293). -/
theorem isTxDescriptor_of_accepted {c : Config} (h : layoutAccepts c) {i : Nat} (hi : i < c.n) :
    (layoutFor c).isTxDescriptor c.n (paWord ((layoutFor c).txdPa i)) = true := by
  refine Layout.isTxDescriptor_iff.mpr ⟨i, hi, ?_⟩
  have hoff : (layoutFor c).txdPa i = c.paBase + (4 * c.n + c.mtu * c.n + 8 * i) := by
    simp only [Layout.txdPa, layoutFor, subRegionAt, Config.RXD, Config.TXD]; omega
  rw [hoff]
  exact paWord_toNat_of_accepted h (by rw [layoutFor_stop]; omega)

theorem devKickOp_of {L : Layout} {pa : Word} (hset : s.txqSet = true) (hL : s.layout = some L)
    (h : L.isTxDescriptor s.cfg.n pa = true) : devKickOp pa s = .ok { s with txRunning := true } :=
  devKickOp_ok_iff.mpr ⟨hset, L, hL, h, rfl⟩

theorem txhEnd_completes (hr : RingInv s) (r : Word) (hactive : s.htx = .active) :
    ∃ u, txhEndOp r s = .ok u ∧ u.st = some .ok := by
  obtain ⟨hs, -, -, -, hh⟩ := hr
  have hcon := hh.txConstructed (by rw [hactive]; nofun)
  have hready := State.txState_of_constructed hcon
  obtain ⟨hL, haccepts⟩ := hs.tx_layout hready
  obtain ⟨c, hlt, hc⟩ := hs.txCursorLegal hready
  have hsend := txSendCompleteOp_ok_iff.mpr ⟨hready, c, _, hc, (hh.txActive hactive).trans hc, hL, rfl, rfl⟩
  exact ⟨_, txhEndOp_ok_iff.mpr ⟨hactive, _, _, _, hsend,
    devKickOp_of (State.txqSet_of_constructed hcon) hL (isTxDescriptor_of_accepted haccepts hlt), rfl⟩, rfl⟩

section
variable (hs : SetupInv s) (ho : TxOccupancy s) (hr : s.txState = .ready) {i : Nat} (hi : s.hwTxIdx = some i)
  (hlt : i < s.cfg.n)
include hs ho hr hi hlt

/-- The run of slots in flight begins at the tail, so the tail's slot says whether there is one (10_state.md R60). -/
theorem txBusy_tail : txBusy s (layoutFor s.cfg) i = decide (0 < txBusyCount s (layoutFor s.cfg)) := by
  obtain ⟨p, -, hp⟩ := hs.txCursorLegal hr
  obtain ⟨⟨-, -, hrun⟩, -⟩ := txOccupancy_iff.mp ho hr p hp
  have htail : s.hwTxIdx.getD 0 = i := by rw [hi]; rfl
  rw [hrun i hlt, htail, Nat.add_sub_cancel_left, Nat.mod_self]
  rfl

/-- Where nothing is in flight no claim is open and the two positions agree (10_state.md R61). -/
theorem drained_of_count_zero (hcount : txBusyCount s (layoutFor s.cfg) = 0) :
    s.txClaim = none ∧ s.hwTxIdx = s.txCursor := by
  obtain ⟨p, hplt, hp⟩ := hs.txCursorLegal hr
  obtain ⟨⟨-, hpos, -⟩, hlast⟩ := txOccupancy_iff.mp ho hr p hp
  have hnone : s.txClaim = none := by
    refine Option.eq_none_iff_forall_ne_some.mpr fun k hk => ?_
    have := (hlast k hk).2
    omega
  refine ⟨hnone, ?_⟩
  have htail : s.hwTxIdx.getD 0 = i := by rw [hi]; rfl
  rw [htail, claimCount_of_none hnone, ← txBusyCount, hcount, Nat.add_zero, Nat.add_zero, Nat.mod_eq_of_lt hlt,
    Nat.mod_eq_of_lt hplt] at hpos
  rw [hi, hp, hpos]

end

end Sys2Proof.Machine
end

section
/-! PROOFS. A valid handle succeeds (44_driver.md R260), and a stopped engine is drained (10_state.md R61). -/

open Sys2Proof Sys2Proof.Machine

/-- Settles O58: the slot a handle reserves passes every check that its command makes. -/
theorem validHandlesSucceed : Obligations.ValidHandlesSucceed := by
  intro s hf hr
  refine ⟨fun hlive hnot hborrow => ?rxBegin, fun r hactive => ?rxEnd, fun len hlive hnot => ?txBegin,
    fun r hactive => ?txEnd⟩
  case rxBegin =>
    obtain ⟨u, hu, hst⟩ := rxhBegin_completes hr hlive hnot hborrow
    obtain ⟨t, ht, hfault, hkept⟩ := exec_completes (i := .rxhBegin) hf hu
    exact ⟨t, ht, hfault, hkept.trans hst⟩
  case rxEnd =>
    obtain ⟨u, hu, hst⟩ := rxhEnd_completes hr r hactive
    obtain ⟨t, ht, hfault, hkept⟩ := exec_completes (i := .rxhEnd r) hf hu
    exact ⟨t, ht, hfault, hkept.trans hst⟩
  case txBegin =>
    obtain ⟨u, hu, hst⟩ := txhBegin_completes hr len hlive hnot
    obtain ⟨t, ht, hfault, hkept⟩ := exec_completes (i := .txhBegin len) hf hu
    exact ⟨t, ht, hfault, by rwa [hkept]⟩
  case txEnd =>
    obtain ⟨u, hu, hst⟩ := txhEnd_completes hr r hactive
    obtain ⟨t, ht, hfault, hkept⟩ := exec_completes (i := .txhEnd r) hf hu
    exact ⟨t, ht, hfault, hkept.trans hst⟩

/-- Settles O59: the engine stops at a tail that is software's, and a run of slots in flight would begin there. -/
theorem stoppedEngineIsDrained : Obligations.StoppedEngineIsDrained := by
  intro s t hr hon h hoff
  obtain ⟨hs, hw, -, ho, -⟩ := hr
  rcases exec_cases h with ⟨-, u, hu, rfl⟩ | ⟨r, -, rfl⟩
  · obtain ⟨i, w, hlt, hready, hread, -, hi, htail⟩ := txTail_of_inv hs hw hon
    obtain ⟨hoff', -⟩ | ⟨-, j, L, v, htail', rfl⟩ := dmaTxStopOp_ok_iff.mp hu
    · exact absurd (hon.symm.trans hoff') nofun
    · rw [htail] at htail'
      cases htail'
      cases hused : txUsed w with
      | false =>
        rw [hused] at hoff
        exact absurd (hon.symm.trans hoff) nofun
      | true =>
        have hfree : txBusy s (layoutFor s.cfg) i = false := by rw [txBusy_of hread, hused]; rfl
        have hcount : txBusyCount s (layoutFor s.cfg) = 0 := by
          rw [txBusy_tail hs ho hready hi hlt, decide_eq_false_iff_not] at hfree
          exact Nat.eq_zero_of_not_pos hfree
        have hdrained := drained_of_count_zero hs ho hready hi hlt hcount
        rw [if_pos rfl]
        exact ⟨hcount, hdrained⟩
  · exact absurd (hon.symm.trans hoff) nofun

end

section
/-! SUPPORT. What a command that stores nothing may write: one lemma per command, the whole state left by one that
completes (44_driver.md R242 to R256; 45_dma_engine.md R290 to R293, R299). -/

namespace Sys2Proof.Machine

variable {s t u : State}

/-- An instruction that raised no fault left what its rule computed. -/
theorem exec_effect {i : Instr} (h : exec i s = .next t) (hf : t.fault = none) :
    ∃ u, bodyOf i s = .ok u ∧ t = Instr.done i u := by
  rcases exec_cases h with ⟨-, heffect⟩ | ⟨r, -, rfl⟩
  · exact heffect
  · exact absurd hf nofun

/-- The pure queries (44_driver.md R256). -/
def isQuery (i : Instr) : Prop :=
  i = .rxAvail ∨ i = .txAvail ∨ i = .drvCaps ∨ i = .drvClassifyIrq ∨ ∃ ring off, i = .bufRd ring off

theorem query_isCommand {i : Instr} (hi : isQuery i) : i.isCommand = true := by
  rcases hi with rfl | rfl | rfl | rfl | ⟨ring, off, rfl⟩ <;> rfl

/-- A query that completes writes `res` and the status `OK`. -/
theorem query_effect {i : Instr} (hi : isQuery i) (h : bodyOf i s = .ok u) :
    u = { s with res := u.res, st := some .ok } := by
  rcases hi with rfl | rfl | rfl | rfl | ⟨ring, off, rfl⟩
  · obtain ⟨c, L, w, -, rfl⟩ := rxAvailOp_ok_iff.mp h
    rfl
  · obtain ⟨-, c, L, w, -, rfl⟩ := txAvailOp_ok_iff.mp h
    rfl
  · cases (drvCapsOp_eq s).symm.trans h
    rfl
  · cases (drvClassifyIrqOp_eq s).symm.trans h
    rfl
  · obtain ⟨a, b, -, -, -, rfl⟩ := bufRdOp_ok_iff.mp h
    rfl

theorem done_of_isCommand {i : Instr} (hi : i.isCommand = true) (s : State) : Instr.done i s = s.advancePc := if_pos hi

theorem exec_rxRecvNext_effect (h : exec .rxRecvNext s = .next t) (hf : t.fault = none) :
    t = { s with rxBorrow := t.rxBorrow, res := t.res, st := some .ok, pc := s.pc + 1 } := by
  obtain ⟨u, hu, rfl⟩ := exec_effect h hf
  obtain ⟨-, -, hop⟩ := exclusive_ok_iff.mp hu
  obtain ⟨-, c, L, w, -, -, rfl⟩ := rxRecvNextOp_ok_iff.mp hop
  rfl

theorem exec_rxhBegin_effect (h : exec .rxhBegin s = .next t) (hf : t.fault = none) :
    t = { s with rxBorrow := t.rxBorrow, res := t.res, st := some .ok, hrx := .active, pc := s.pc + 1 } := by
  obtain ⟨u, hu, rfl⟩ := exec_effect h hf
  obtain ⟨-, -, v, hop, rfl⟩ := rxhBeginOp_ok_iff.mp hu
  obtain ⟨-, c, L, w, -, -, rfl⟩ := rxRecvNextOp_ok_iff.mp hop
  rfl

theorem exec_txSendComplete_effect (h : exec .txSendComplete s = .next t) (hf : t.fault = none) :
    t = { s with txCursor := t.txCursor, txClaim := none, res := t.res, st := some .ok, pc := s.pc + 1 } := by
  obtain ⟨u, hu, rfl⟩ := exec_effect h hf
  obtain ⟨-, -, hop⟩ := exclusive_ok_iff.mp hu
  obtain ⟨a, hsend⟩ := txCommitOp_ok_iff.mp hop
  obtain ⟨-, c, L, -, -, -, -, rfl⟩ := txSendCompleteOp_ok_iff.mp hsend
  rfl

theorem exec_txhEnd_effect {r : Word} (h : exec (.txhEnd r) s = .next t) (hf : t.fault = none) :
    t = { s with txCursor := t.txCursor, txClaim := none, txRunning := true, htx := .none, res := t.res, st := some .ok,
                 pc := s.pc + 1 } := by
  obtain ⟨u, hu, rfl⟩ := exec_effect h hf
  obtain ⟨-, v, a, v', hsend, hkick, rfl⟩ := txhEndOp_ok_iff.mp hu
  obtain ⟨-, c, L, -, -, -, -, rfl⟩ := txSendCompleteOp_ok_iff.mp hsend
  obtain ⟨-, L', -, -, rfl⟩ := devKickOp_ok_iff.mp hkick
  rfl

theorem exec_drvReceive_effect (h : exec .drvReceive s = .next t) (hf : t.fault = none) :
    t = { s with hrx := t.hrx, htx := t.htx, st := t.st, pc := s.pc + 1 } := by
  obtain ⟨u, hu, rfl⟩ := exec_effect h hf
  obtain ⟨-, -, hop⟩ := exclusive_ok_iff.mp hu
  obtain ⟨-, c, L, rw, d, M, tw, -, -, rfl⟩ := drvReceiveOp_ok_iff.mp hop
  split <;> rfl

theorem exec_drvTransmit_effect (h : exec .drvTransmit s = .next t) (hf : t.fault = none) :
    t = { s with htx := t.htx, st := t.st, pc := s.pc + 1 } := by
  obtain ⟨u, hu, rfl⟩ := exec_effect h hf
  obtain ⟨-, -, hop⟩ := exclusive_ok_iff.mp hu
  obtain ⟨-, c, L, w, -, rfl⟩ := drvTransmitOp_ok_iff.mp hop
  split <;> rfl

theorem exec_handleDrop_rx_effect (h : exec (.handleDrop .rx) s = .next t) (hf : t.fault = none) :
    t = { s with hrx := .none, st := some .ok, pc := s.pc + 1 } := by
  obtain ⟨u, hu, rfl⟩ := exec_effect h hf
  obtain ⟨-, rfl⟩ := handleDropOp_rx_ok_iff.mp hu
  rfl

theorem exec_handleDrop_tx_effect (h : exec (.handleDrop .tx) s = .next t) (hf : t.fault = none) :
    t = { s with htx := .none, st := some .ok, pc := s.pc + 1 } := by
  obtain ⟨u, hu, rfl⟩ := exec_effect h hf
  obtain ⟨-, rfl⟩ := handleDropOp_tx_ok_iff.mp hu
  rfl

section
variable {pa : Word}

theorem exec_devSetRxqBase_effect (h : exec (.devSetRxqBase pa) s = .next t) (hf : t.fault = none) :
    t = { s with rxqBase := t.rxqBase, rxqSet := true, hwRxIdx := some 0, rxEnabled := true, pc := s.pc + 1 } := by
  obtain ⟨u, hu, rfl⟩ := exec_effect h hf
  obtain ⟨-, -, hop⟩ := exclusive_ok_iff.mp hu
  obtain ⟨-, -, L, -, -, rfl⟩ := devSetRxqBaseOp_ok_iff.mp hop
  rfl

theorem exec_devSetTxqBase_effect (h : exec (.devSetTxqBase pa) s = .next t) (hf : t.fault = none) :
    t = { s with txqBase := t.txqBase, txqSet := true, hwTxIdx := some 0, txRunning := false, pc := s.pc + 1 } := by
  obtain ⟨u, hu, rfl⟩ := exec_effect h hf
  obtain ⟨-, -, hop⟩ := exclusive_ok_iff.mp hu
  obtain ⟨-, -, L, -, -, rfl⟩ := devSetTxqBaseOp_ok_iff.mp hop
  rfl

theorem exec_devSetTxq1Base_effect (h : exec (.devSetTxq1Base pa) s = .next t) (hf : t.fault = none) :
    t = { s with txq1Base := t.txq1Base, txq1Set := true, pc := s.pc + 1 } := by
  obtain ⟨u, hu, rfl⟩ := exec_effect h hf
  obtain ⟨-, -, hop⟩ := exclusive_ok_iff.mp hu
  obtain ⟨-, -, L, -, -, rfl⟩ := devSetTxq1BaseOp_ok_iff.mp hop
  rfl

theorem exec_devKick_effect (h : exec (.devKick pa) s = .next t) (hf : t.fault = none) :
    t = { s with txRunning := true, pc := s.pc + 1 } := by
  obtain ⟨u, hu, rfl⟩ := exec_effect h hf
  obtain ⟨-, L, -, -, rfl⟩ := devKickOp_ok_iff.mp hu
  rfl

end

theorem exec_devClearIrq_effect (h : exec .devClearIrq s = .next t) (hf : t.fault = none) :
    t = { s with rxComplete := false, txComplete := false, pc := s.pc + 1 } := by
  obtain ⟨u, hu, rfl⟩ := exec_effect h hf
  cases (devClearIrqOp_eq s).symm.trans hu
  rfl

/-- A state that is known and has the memory of another has every byte of it. -/
theorem read_of_eq (h : t = u) (hmem : u.mem = s.mem) (a : Nat) : t.mem.read a = s.mem.read a := by rw [h, hmem]

end Sys2Proof.Machine
end

section
/-! PROOFS. The frames of the queries, of the handle commands and of the device commands. -/

open Sys2Proof Sys2Proof.Machine

/-- Settles O43: a query that completes writes `res` and `st`, and one that raises a fault nothing but the record. -/
theorem frameOfQueries : Obligations.FrameOfQueries := by
  intro i s t hi h
  rcases exec_cases h with ⟨hf, u, hu, rfl⟩ | ⟨r, -, rfl⟩
  · rw [done_of_isCommand (query_isCommand hi)] at hf ⊢
    rw [query_effect hi hu] at hf ⊢
    exact ⟨fun _ => rfl, fun r hr => absurd (hf.symm.trans hr) nofun, fun _ => rfl⟩
  · exact ⟨fun hf => absurd hf nofun, fun _ hr => by rw [← hr], fun _ => rfl⟩

/-- Settles O44: the state each command leaves, in which memory is as it was. -/
theorem frameOfHandleCommands : Obligations.FrameOfHandleCommands := by
  intro i s t h hf
  refine ⟨⟨?_, ?_, ?_, ?_, ?_, ?_, ?_, ?_⟩, ?memory⟩
  case memory =>
    rintro (rfl | rfl | rfl | ⟨r, rfl⟩ | rfl | rfl | ⟨_ | _, rfl⟩)
    · exact read_of_eq (exec_rxRecvNext_effect h hf) rfl
    · exact read_of_eq (exec_rxhBegin_effect h hf) rfl
    · exact read_of_eq (exec_txSendComplete_effect h hf) rfl
    · exact read_of_eq (exec_txhEnd_effect h hf) rfl
    · exact read_of_eq (exec_drvReceive_effect h hf) rfl
    · exact read_of_eq (exec_drvTransmit_effect h hf) rfl
    · exact read_of_eq (exec_handleDrop_rx_effect h hf) rfl
    · exact read_of_eq (exec_handleDrop_tx_effect h hf) rfl
  · rintro rfl
    exact exec_rxRecvNext_effect h hf
  · rintro rfl
    exact exec_rxhBegin_effect h hf
  · rintro rfl
    exact exec_txSendComplete_effect h hf
  · rintro r rfl
    exact exec_txhEnd_effect h hf
  · rintro rfl
    exact exec_drvReceive_effect h hf
  · rintro rfl
    exact exec_drvTransmit_effect h hf
  · rintro rfl
    exact exec_handleDrop_rx_effect h hf
  · rintro rfl
    exact exec_handleDrop_tx_effect h hf

/-- Settles O45: the state each command leaves, in which memory is as it was. -/
theorem frameOfDeviceCommands : Obligations.FrameOfDeviceCommands := by
  intro i s t h hf
  refine ⟨⟨?_, ?_, ?_, ?_, ?_⟩, ?memory⟩
  case memory =>
    rintro (⟨pa, rfl | rfl | rfl | rfl⟩ | rfl)
    · exact read_of_eq (exec_devSetRxqBase_effect h hf) rfl
    · exact read_of_eq (exec_devSetTxqBase_effect h hf) rfl
    · exact read_of_eq (exec_devSetTxq1Base_effect h hf) rfl
    · exact read_of_eq (exec_devKick_effect h hf) rfl
    · exact read_of_eq (exec_devClearIrq_effect h hf) rfl
  · rintro pa rfl
    exact exec_devSetRxqBase_effect h hf
  · rintro pa rfl
    exact exec_devSetTxqBase_effect h hf
  · rintro pa rfl
    exact exec_devSetTxq1Base_effect h hf
  · rintro pa rfl
    exact exec_devKick_effect h hf
  · rintro rfl
    exact exec_devClearIrq_effect h hf

end

section
/-! SUPPORT. What a command that stores may write, and which bytes it leaves (41_rx_ring.md R174; 42_tx_ring.md R203;
44_driver.md R253; 45_dma_engine.md R303, R306, R309, R310). -/

namespace Sys2Proof.Machine

variable {s t u : State} {L : Layout}

theorem rxMarkDoneOp_frame {c : Nat} (h : rxMarkDoneOp s = .ok u) (hL : s.layout = some L) (hc : s.rxCursor = some c) :
    u = { s with mem := u.mem, rxBorrow := none, rxCursor := u.rxCursor, st := some .ok } ∧
      ∀ a, a < L.rxdOff c ∨ L.rxdOff c + 4 ≤ a → u.mem.read a = s.mem.read a := by
  obtain ⟨c', L', w, hword, -, rfl⟩ := rxMarkDoneOp_ok_iff.mp h
  obtain ⟨-, hc', hL', -, -⟩ := rxCursorWord_ok_iff.mp hword
  cases hc.symm.trans hc'
  cases hL.symm.trans hL'
  exact ⟨rfl, fun a ha => Memory.read_writeWord_outside ha⟩

theorem txGetNextBufferOp_frame {len c : Nat} (h : txGetNextBufferOp len s = .ok u) (hL : s.layout = some L)
    (hc : s.txCursor = some c) :
    u = { s with mem := u.mem, txClaim := u.txClaim, res := u.res, st := some .ok } ∧
      ∀ a, a < L.txd1Off c ∨ L.txd1Off c + 4 ≤ a → u.mem.read a = s.mem.read a := by
  obtain ⟨-, -, -, c', L', w, hword, -, rfl⟩ := txGetNextBufferOp_ok_iff.mp h
  obtain ⟨hc', hL', -, -⟩ := txCursorWord_ok_iff.mp hword
  cases hc.symm.trans hc'
  cases hL.symm.trans hL'
  exact ⟨rfl, fun a ha => Memory.read_writeWord_outside ha⟩

/-- A transmit handle's BEGIN claims the slot, or rejects the length and stores nothing. -/
theorem txhBeginOp_frame {len : Word} {c : Nat} (h : txhBeginOp len s = .ok u) (hL : s.layout = some L)
    (hc : s.txCursor = some c) :
    u = { s with mem := u.mem, txClaim := u.txClaim, htx := u.htx, oversizeMarker := u.oversizeMarker, res := u.res,
                 st := u.st } ∧
      (u.st = some .rejected → u.mem = s.mem ∧ u.txClaim = s.txClaim ∧ u.res = s.res) ∧
      ∀ a, a < L.txd1Off c ∨ L.txd1Off c + 4 ≤ a → u.mem.read a = s.mem.read a := by
  obtain ⟨-, -, ⟨-, v, hop, rfl⟩ | ⟨-, -, v, hop, rfl⟩ | ⟨-, -, rfl⟩⟩ := txhBeginOp_ok_iff.mp h
  · obtain ⟨hv, hread⟩ := txGetNextBufferOp_frame hop hL hc
    rw [hv]
    exact ⟨rfl, nofun, hread⟩
  · obtain ⟨hv, hread⟩ := txGetNextBufferOp_frame hop hL hc
    rw [hv]
    exact ⟨rfl, nofun, hread⟩
  · exact ⟨rfl, fun _ => ⟨rfl, rfl, rfl⟩, fun _ _ => rfl⟩

theorem simRxSetOwnOp_frame {idx : Word} (h : simRxSetOwnOp idx s = .ok u) (hL : s.layout = some L) :
    u = { s with mem := u.mem } ∧
      ∀ a, a < L.rxdOff idx.toNat ∨ L.rxdOff idx.toNat + 4 ≤ a → u.mem.read a = s.mem.read a := by
  obtain ⟨-, -, -, L', w, hL', -, -, rfl⟩ := simRxSetOwnOp_ok_iff.mp h
  cases hL.symm.trans hL'
  exact ⟨rfl, fun a ha => Memory.read_writeWord_outside ha⟩

theorem simTxSetOwnOp_frame {idx : Word} (h : simTxSetOwnOp idx s = .ok u) (hL : s.layout = some L) :
    u = { s with mem := u.mem } ∧
      ∀ a, a < L.txd1Off idx.toNat ∨ L.txd1Off idx.toNat + 4 ≤ a → u.mem.read a = s.mem.read a := by
  obtain ⟨-, -, -, L', w, hL', -, -, rfl⟩ := simTxSetOwnOp_ok_iff.mp h
  cases hL.symm.trans hL'
  exact ⟨rfl, fun a ha => Memory.read_writeWord_outside ha⟩

theorem bufWrOp_frame {ring : Ring} {off : BitVec 16} {b : Byte} {k : Nat} (h : bufWrOp ring off b s = .ok u)
    (hL : s.layout = some L) (hk : sliceSlot? ring off.toNat s.cfg.mtu s.rxBorrow s.txClaim = some k) :
    u = { s with mem := u.mem, st := some .ok } ∧
      ∀ a, a ≠ L.slotOff ring s.cfg.mtu k + off.toNat → u.mem.read a = s.mem.read a := by
  obtain ⟨x, hslice, -, rfl⟩ := bufWrOp_ok_iff.mp h
  obtain ⟨k', L', hk', hL', rfl⟩ := sliceByte_ok_iff.mp hslice
  cases hk.symm.trans hk'
  cases hL.symm.trans hL'
  exact ⟨rfl, fun a ha => Memory.read_store_byte_ne b ha⟩

/-- The end of the RX table, as its first offset and its size give it. -/
theorem rxdOff_eq_add (L : Layout) (n : Nat) : L.rxdOff n = L.rxdOff 0 + Config.RXD * n := by
  simp only [Layout.rxdOff, Nat.mul_zero, Nat.add_zero]

/-- The end of the TX table, as its first offset and its size give it. -/
theorem txd0Off_eq_add (L : Layout) (n : Nat) : L.txd0Off n = L.txd0Off 0 + Config.TXD * n := by
  simp only [Layout.txd0Off, Nat.mul_zero, Nat.add_zero]

/-- The tables and the dummy record are all that `DRV_INIT` stores. -/
theorem Memory.read_writeTables_outside {m : Memory} {c : Config} {a : Nat}
    (hrx : a < (layoutFor c).rxdOff 0 ∨ (layoutFor c).rxdOff c.n ≤ a)
    (htx : a < (layoutFor c).txd0Off 0 ∨ (layoutFor c).txd0Off c.n ≤ a)
    (hdmy : a < (layoutFor c).dmy0Off ∨ (layoutFor c).dmy1Off + 4 ≤ a) : (m.writeTables c).read a = m.read a := by
  rw [rxdOff_eq_add] at hrx
  rw [txd0Off_eq_add] at htx
  unfold Memory.writeTables
  rw [read_writeDummy_outside hdmy, read_store_txTable_outside htx, read_store_rxTable_outside hrx]

/-- A stored frame and the ownership word are all that `DMA_RX_FRAME` stores. -/
theorem dmaRxFrameOp_frame (h : dmaRxFrameOp s = .ok u) (hL : s.layout = some L) :
    u = { s with mem := u.mem, hwRxIdx := u.hwRxIdx, rxComplete := u.rxComplete } ∧
      ∀ (i : Nat) (w : Word), s.hwRxIdx = some i → s.dmaWord (L.rxdOff i) = .ok w →
        ∀ a, (a < L.rxdOff i ∨ L.rxdOff i + 4 ≤ a) →
          (a < (rxAddr w).toNat - s.cfg.paBase ∨ (rxAddr w).toNat - s.cfg.paBase + s.cfg.mtu ≤ a) →
          u.mem.read a = s.mem.read a := by
  obtain ⟨-, rfl⟩ | ⟨-, i', L', w', hhead, ⟨-, rfl⟩ | ⟨-, hstore⟩⟩ := dmaRxFrameOp_ok_iff.mp h
  · exact ⟨rfl, fun _ _ _ _ _ _ _ => rfl⟩
  · exact ⟨rfl, fun _ _ _ _ _ _ _ => rfl⟩
  obtain ⟨hi', hL', hw'⟩ := rxHead_ok_iff.mp hhead
  obtain ⟨j, -, -, -, -, rfl⟩ := dmaStoreFrame_ok_iff.mp hstore
  refine ⟨rfl, fun i w hi hw a hword hframe => ?_⟩
  cases hL.symm.trans hL'
  cases hi.symm.trans hi'
  cases hw.symm.trans hw'
  rw [← State.frameDraw_length s] at hframe
  exact (Memory.read_writeWord_outside hword).trans (Memory.read_store_outside hframe)

/-- The ownership word is all that `DMA_TX_FRAME` stores. -/
theorem dmaTxFrameOp_frame (h : dmaTxFrameOp s = .ok u) (hL : s.layout = some L) :
    u = { s with mem := u.mem, hwTxIdx := u.hwTxIdx, wireTx := u.wireTx, txComplete := u.txComplete } ∧
      (∃ frames, u.wireTx = s.wireTx ++ frames) ∧
      ∀ i : Nat, s.hwTxIdx = some i →
        ∀ a, (a < L.txd1Off i ∨ L.txd1Off i + 4 ≤ a) → u.mem.read a = s.mem.read a := by
  obtain ⟨-, rfl⟩ | ⟨-, i', L', w', htail, ⟨-, rfl⟩ | ⟨-, hsend⟩⟩ := dmaTxFrameOp_ok_iff.mp h
  · exact ⟨rfl, ⟨[], (List.append_nil _).symm⟩, fun _ _ _ _ => rfl⟩
  · exact ⟨rfl, ⟨[], (List.append_nil _).symm⟩, fun _ _ _ _ => rfl⟩
  obtain ⟨hi', hL', -⟩ := txTail_ok_iff.mp htail
  obtain ⟨-, x, j, -, -, -, -, -, rfl⟩ := dmaSendFrame_ok_iff.mp hsend
  refine ⟨rfl, ⟨_, rfl⟩, fun i hi a hword => ?_⟩
  cases hL.symm.trans hL'
  cases hi.symm.trans hi'
  exact Memory.read_writeWord_outside hword

theorem dmaTxStopOp_frame (h : dmaTxStopOp s = .ok u) : u = { s with txRunning := u.txRunning } := by
  obtain ⟨-, rfl⟩ | ⟨-, i, L, w, -, rfl⟩ := dmaTxStopOp_ok_iff.mp h
  · rfl
  · split <;> rfl

end Sys2Proof.Machine
end

section
/-! PROOFS. The frames of the commands that store, of construction, and of the DMA steps. -/

open Sys2Proof Sys2Proof.Machine

/-- Settles O46: each command stores one word or one byte, at the address its own checks name. -/
theorem frameOfStores : Obligations.FrameOfStores := by
  intro i s t L h hf hL
  refine ⟨fun c hc hi => ?rx, fun c hc hi => ?tx, fun idx hi => ?simRx, fun idx hi => ?simTx,
    fun ring off b k hi hk => ?bufWr⟩
  case rx =>
    rcases hi with rfl | ⟨r, rfl⟩
    · obtain ⟨u, hu, rfl⟩ := exec_effect h hf
      obtain ⟨hframe, hread⟩ := rxMarkDoneOp_frame (exclusive_ok_iff.mp hu).2.2 hL hc
      refine ⟨?_, fun _ => ?_, hread⟩
      · rw [hframe]; rfl
      · rw [hframe]; exact ⟨rfl, rfl⟩
    · obtain ⟨u, hu, rfl⟩ := exec_effect h hf
      obtain ⟨-, v, hop, rfl⟩ := rxhEndOp_ok_iff.mp hu
      obtain ⟨hframe, hread⟩ := rxMarkDoneOp_frame hop hL hc
      refine ⟨?_, nofun, hread⟩
      rw [hframe]; rfl
  case tx =>
    obtain ⟨len, rfl | rfl⟩ := hi
    · obtain ⟨u, hu, rfl⟩ := exec_effect h hf
      obtain ⟨hframe, hread⟩ := txGetNextBufferOp_frame (exclusive_ok_iff.mp hu).2.2 hL hc
      refine ⟨?_, fun _ => ?_, ?_, hread⟩
      · rw [hframe]; rfl
      · rw [hframe]; exact ⟨rfl, rfl⟩
      · rw [hframe]; nofun
    · obtain ⟨u, hu, rfl⟩ := exec_effect h hf
      obtain ⟨hframe, hrejected, hread⟩ := txhBeginOp_frame hu hL hc
      refine ⟨?_, nofun, hrejected, hread⟩
      rw [hframe]; rfl
  case simRx =>
    subst hi
    obtain ⟨u, hu, rfl⟩ := exec_effect h hf
    obtain ⟨hframe, hread⟩ := simRxSetOwnOp_frame hu hL
    refine ⟨?_, hread⟩
    rw [hframe]; rfl
  case simTx =>
    subst hi
    obtain ⟨u, hu, rfl⟩ := exec_effect h hf
    obtain ⟨hframe, hread⟩ := simTxSetOwnOp_frame hu hL
    refine ⟨?_, hread⟩
    rw [hframe]; rfl
  case bufWr =>
    subst hi
    obtain ⟨u, hu, rfl⟩ := exec_effect h hf
    obtain ⟨hframe, hread⟩ := bufWrOp_frame hu hL hk
    refine ⟨?_, hread⟩
    rw [hframe]; rfl

/-- Settles O47: each command stores the tables it sets up, whose bounds are the layout's. -/
theorem frameOfConstruction : Obligations.FrameOfConstruction := by
  intro i s t L h hf hL
  obtain ⟨u, hu, rfl⟩ := exec_effect h hf
  refine ⟨fun hi => ?layout, fun hi => ?rxSetup, fun hi => ?txSetup, fun hi => ?dummySetup, fun hi => ?drvInit⟩
  all_goals
    subst hi
    obtain ⟨-, -, hop⟩ := exclusive_ok_iff.mp hu
  case layout =>
    obtain ⟨-, -, rfl⟩ := layoutOp_ok_iff.mp hop
    cases hL
    exact ⟨rfl, fun _ => rfl⟩
  case rxSetup =>
    obtain ⟨-, -, L', hL', -, rfl⟩ := rxSetupOp_ok_iff.mp hop
    cases hL.symm.trans hL'
    refine ⟨rfl, fun a ha => ?_⟩
    rw [rxdOff_eq_add] at ha
    exact read_store_rxTable_outside ha
  case txSetup =>
    obtain ⟨-, -, L', hL', -, rfl⟩ := txSetupOp_ok_iff.mp hop
    cases hL.symm.trans hL'
    refine ⟨rfl, fun a ha => ?_⟩
    rw [txd0Off_eq_add] at ha
    exact read_store_txTable_outside ha
  case dummySetup =>
    obtain ⟨-, -, L', hL', -, rfl⟩ := dummySetupOp_ok_iff.mp hop
    cases hL.symm.trans hL'
    exact ⟨rfl, fun a ha => read_writeDummy_outside ha⟩
  case drvInit =>
    obtain ⟨-, rfl⟩ := drvInitOp_ok_iff_initialized.mp hop
    cases hL
    exact ⟨rfl, rfl, rfl, rfl, rfl, rfl, rfl, rfl, rfl, rfl,
      fun a hrx htx hdmy => Memory.read_writeTables_outside hrx htx hdmy⟩

/-- Settles O48: each rule of the DMA agent leaves what its one effect does not name. -/
theorem frameOfDmaSteps : Obligations.FrameOfDmaSteps := by
  intro s t L hf hL
  refine ⟨fun h => ?rxFrame, fun h => ?rxDrop, fun h => ?txFrame, fun h => ?txStop⟩
  all_goals obtain ⟨u, hu, rfl⟩ := exec_effect h hf
  case rxFrame => exact dmaRxFrameOp_frame hu hL
  case rxDrop => exact (dmaRxDropOp_ok_iff.mp hu).1
  case txFrame => exact dmaTxFrameOp_frame hu hL
  case txStop => exact ⟨dmaTxStopOp_frame hu, fun a => read_of_eq (dmaTxStopOp_frame hu) rfl a⟩

end

section
/-! SUPPORT. `LAYOUT` check by check: where the five sub-regions are aligned, and the fault of the first check that
fails (40_layout.md R151, R154; 70_reset_and_hazards.md R373). -/

namespace Sys2Proof.Machine

variable {c : Config} {s : State}

/-- An instruction that left a fault record has a rule that raised it. -/
theorem body_raised {i : Instr} {r : FaultRecord} (h : exec i s = .next { s with fault := some r }) :
    bodyOf i s = .error (.raise r) := by
  obtain ⟨hf, -⟩ | ⟨r', hr', heq⟩ := exec_cases h
  · exact absurd hf nofun
  · cases congrArg State.fault heq
    exact hr'

/-- Behind the handle check, with no handle held, it is the command's own rule. -/
theorem op_raised {i : Instr} {op : State → Attempt State} {r : FaultRecord} (hb : bodyOf i = exclusive i op)
    (hn : s.noHandle) (h : exec i s = .next { s with fault := some r }) : op s = .error (.raise r) :=
  (exclusive_of_noHandle hn).symm.trans ((congrFun hb s).symm.trans (body_raised h))

theorem AlignedAt.add {off a k : Nat} (h : AlignedAt c off a) (hk : k % a = 0) : AlignedAt c (off + k) a := by
  obtain ⟨hoff, hpa, hva⟩ := h
  refine ⟨?_, ?_, ?_⟩
  · rw [Nat.add_mod, hoff, hk, Nat.zero_mod]
  · rw [← Nat.add_assoc, Nat.add_mod, hpa, hk, Nat.zero_mod]
  · rw [← Nat.add_assoc, Nat.add_mod, hva, hk, Nat.zero_mod]

theorem AlignedAt.four_of_eight {off : Nat} (h : AlignedAt c off 8) : AlignedAt c off 4 := by
  obtain ⟨hoff, hpa, hva⟩ := h
  exact ⟨by omega, by omega, by omega⟩

theorem alignedTo_subRegionAt {off a : Nat} : (subRegionAt c off).alignedTo a = true ↔ AlignedAt c off a :=
  decide_eq_true_iff

theorem misaligned_iff {off a : Nat} :
    (!(subRegionAt c off).alignedTo a) = true ↔ ¬ AlignedAt c off a := by
  rw [Bool.not_eq_true', ← alignedTo_subRegionAt, Bool.not_eq_true]

theorem not_misaligned {off a : Nat} (h : AlignedAt c off a) : ¬ (!(subRegionAt c off).alignedTo a) = true :=
  fun hnot => misaligned_iff.mp hnot h

/-- The record of R151 in closed form. -/
theorem layoutFor_eq (c : Config) :
    layoutFor c = {
      rxd := subRegionAt c 0
      rxb := subRegionAt c (4 * c.n)
      txd := subRegionAt c (4 * c.n + c.mtu * c.n)
      txb := subRegionAt c (12 * c.n + c.mtu * c.n)
      dmy := subRegionAt c (12 * c.n + 2 * c.mtu * c.n)
      stop := 12 * c.n + 2 * c.mtu * c.n + 8 } := by
  have htxb : Config.RXD * c.n + c.mtu * c.n + Config.TXD * c.n = 12 * c.n + c.mtu * c.n := by
    simp only [Config.RXD, Config.TXD]; omega
  have hdmy : Config.RXD * c.n + c.mtu * c.n + Config.TXD * c.n + c.mtu * c.n = 12 * c.n + 2 * c.mtu * c.n := by
    rw [htxb, Nat.mul_assoc 2]; omega
  unfold layoutFor
  rw [hdmy, htxb]

/-- Where the RX table is aligned, so are its buffers. -/
theorem rxb_aligned (h : AlignedAt c 0 4) : AlignedAt c (4 * c.n) 4 := by
  have := h.add (Nat.mul_mod_right 4 c.n)
  rwa [Nat.zero_add] at this

/-- Where the TX table is aligned, so are its buffers. -/
theorem txb_aligned (h : AlignedAt c (4 * c.n + c.mtu * c.n) 8) : AlignedAt c (12 * c.n + c.mtu * c.n) 4 := by
  have := h.four_of_eight.add (k := 8 * c.n) (by omega)
  rwa [show 4 * c.n + c.mtu * c.n + 8 * c.n = 12 * c.n + c.mtu * c.n by omega] at this

/-- No sub-region is misaligned where the two tables and the dummy record are aligned. -/
theorem firstMisaligned_layoutFor_of_aligned (hrxd : AlignedAt c 0 4) (htxd : AlignedAt c (4 * c.n + c.mtu * c.n) 8)
    (hdmy : AlignedAt c (12 * c.n + 2 * c.mtu * c.n) 8) : (layoutFor c).firstMisaligned = none := by
  rw [firstMisaligned_eq_none_iff, layoutFor_eq]
  simp only [alignedTo_subRegionAt]
  exact ⟨hrxd, rxb_aligned hrxd, htxd, txb_aligned htxd, hdmy⟩

theorem firstMisaligned_layoutFor_of_rxd (hrxd : ¬ AlignedAt c 0 4) : (layoutFor c).firstMisaligned = some .rxd := by
  rw [layoutFor_eq]
  exact if_pos (misaligned_iff.mpr hrxd)

theorem firstMisaligned_layoutFor_of_txd (hrxd : AlignedAt c 0 4) (htxd : ¬ AlignedAt c (4 * c.n + c.mtu * c.n) 8) :
    (layoutFor c).firstMisaligned = some .txd := by
  rw [layoutFor_eq, Layout.firstMisaligned, if_neg (not_misaligned hrxd), if_neg (not_misaligned (rxb_aligned hrxd)),
    if_pos (misaligned_iff.mpr htxd)]

theorem firstMisaligned_layoutFor_of_dmy (hrxd : AlignedAt c 0 4) (htxd : AlignedAt c (4 * c.n + c.mtu * c.n) 8)
    (hdmy : ¬ AlignedAt c (12 * c.n + 2 * c.mtu * c.n) 8) : (layoutFor c).firstMisaligned = some .dmy := by
  rw [layoutFor_eq, Layout.firstMisaligned, if_neg (not_misaligned hrxd), if_neg (not_misaligned (rxb_aligned hrxd)),
    if_neg (not_misaligned htxd), if_neg (not_misaligned (txb_aligned htxd)), if_pos (misaligned_iff.mpr hdmy)]

theorem requireAligned_of_misaligned {L : Layout} {x : SubName} (h : L.firstMisaligned = some x) :
    requireAligned L = .error (.raise (.cfgMisaligned x)) := by
  unfold requireAligned
  rw [h]

theorem requireAligned_bind_of {α : Type} {L : Layout} (f : Unit → Attempt α) (h : L.firstMisaligned = none) :
    (requireAligned L >>= f) = f () := by
  rw [requireAligned_ok_iff (u := ()) |>.mpr h, Attempt.ok_bind]

theorem layoutOp_of_set (h : s.layoutSet = true) : layoutOp s = .error (.raise (.setupTwice .layout)) :=
  require_bind_of_not _ _ (by simp [h])

section
variable (hset : s.layoutSet = false)
include hset

theorem layoutOp_of_badParam (hparams : ¬ paramsLegal s.cfg) :
    layoutOp s = .error (.raise (.cfgBadParam s.cfg.n s.cfg.mtu)) := by
  unfold layoutOp
  rw [require_bind_of _ _ hset, require_bind_of_not _ _ hparams]

variable (hparams : paramsLegal s.cfg)
include hparams

theorem layoutOp_of_tooSmall (hsize : s.cfg.size < (layoutFor s.cfg).stop) :
    layoutOp s = .error (.raise (.cfgRegionTooSmall (layoutFor s.cfg).stop s.cfg.size)) := by
  unfold layoutOp
  rw [require_bind_of _ _ hset, require_bind_of _ _ hparams]
  exact require_bind_of_not _ _ (Nat.not_le.mpr hsize)

variable (hsize : (layoutFor s.cfg).stop ≤ s.cfg.size)
include hsize

/-- Once the parameters and the size pass, the alignment check comes next. -/
theorem layoutOp_eq_of_fits :
    layoutOp s = (requireAligned (layoutFor s.cfg) >>= fun _ => do
      require (s.cfg.paBase + (layoutFor s.cfg).stop ≤ 2 ^ Config.PA_W)
        (.cfgPaOverflow s.cfg.paBase (layoutFor s.cfg).stop)
      require (s.cfg.vaBase + s.cfg.size ≤ 2 ^ Config.VA_W) (.cfgVaOverflow s.cfg.vaBase s.cfg.size)
      .ok { s with layout := some (layoutFor s.cfg), layoutSet := true, st := some .ok }) := by
  unfold layoutOp
  rw [require_bind_of _ _ hset, require_bind_of _ _ hparams]
  exact require_bind_of _ _ hsize

theorem layoutOp_of_misaligned {x : SubName} (hx : (layoutFor s.cfg).firstMisaligned = some x) :
    layoutOp s = .error (.raise (.cfgMisaligned x)) := by
  rw [layoutOp_eq_of_fits hset hparams hsize, requireAligned_of_misaligned hx, Attempt.error_bind]

variable (haligned : (layoutFor s.cfg).firstMisaligned = none)
include haligned

theorem layoutOp_of_paOverflow (hpa : 2 ^ Config.PA_W < s.cfg.paBase + (layoutFor s.cfg).stop) :
    layoutOp s = .error (.raise (.cfgPaOverflow s.cfg.paBase (layoutFor s.cfg).stop)) := by
  rw [layoutOp_eq_of_fits hset hparams hsize, requireAligned_bind_of _ haligned,
    require_bind_of_not _ _ (Nat.not_le.mpr hpa)]

theorem layoutOp_of_vaOverflow (hpa : s.cfg.paBase + (layoutFor s.cfg).stop ≤ 2 ^ Config.PA_W)
    (hva : 2 ^ Config.VA_W < s.cfg.vaBase + s.cfg.size) :
    layoutOp s = .error (.raise (.cfgVaOverflow s.cfg.vaBase s.cfg.size)) := by
  rw [layoutOp_eq_of_fits hset hparams hsize, requireAligned_bind_of _ haligned,
    require_bind_of _ _ hpa, require_bind_of_not _ _ (Nat.not_le.mpr hva)]

theorem layoutOp_ne_misaligned (x : SubName) : layoutOp s ≠ .error (.raise (.cfgMisaligned x)) := by
  rw [layoutOp_eq_of_fits hset hparams hsize, requireAligned_bind_of _ haligned]
  intro h
  obtain hpa | ⟨-, -, h⟩ := Attempt.bind_error_iff.mp h
  · exact absurd (require_error_iff.mp hpa).2 nofun
  obtain hva | ⟨-, -, h⟩ := Attempt.bind_error_iff.mp h
  · exact absurd (require_error_iff.mp hva).2 nofun
  · exact absurd h nofun

end

/-- The dummy record's offset is the TX table's, twice, and four bytes for each slot: an odd depth misaligns one. -/
theorem misaligned_of_odd {n x : Nat} (h : n % 2 = 1) : (4 * n + x) % 8 ≠ 0 ∨ (12 * n + 2 * x) % 8 ≠ 0 := by omega

/-- With bases that are multiples of 8 an even depth aligns everything: `MTU` is a multiple of 4. -/
theorem aligned_of_even (hn : c.n % 2 = 0) (hmtu : c.mtu % 4 = 0) (hpa : c.paBase % 8 = 0) (hva : c.vaBase % 8 = 0) :
    AlignedAt c 0 4 ∧ AlignedAt c (4 * c.n + c.mtu * c.n) 8 ∧ AlignedAt c (12 * c.n + 2 * c.mtu * c.n) 8 := by
  obtain ⟨k, hk⟩ := Nat.dvd_of_mod_eq_zero hn
  obtain ⟨j, hj⟩ := Nat.dvd_of_mod_eq_zero hmtu
  have hpool : c.mtu * c.n = 8 * (j * k) := by rw [hk, hj]; ring
  rw [Nat.mul_assoc 2, hpool, hk]
  exact ⟨⟨by omega, by omega, by omega⟩, ⟨by omega, by omega, by omega⟩, ⟨by omega, by omega, by omega⟩⟩

end Sys2Proof.Machine
end

section
/-! PROOFS. The allocator's rule (40_layout.md): its checks, and when alignment fails (70_reset_and_hazards.md R373). -/

open Sys2Proof Sys2Proof.Machine

/-- Settles O12: each check in turn fails, or passes and leaves the rest; the record is `layoutFor` in closed form. -/
theorem layoutRule : Obligations.LayoutRule := by
  rintro s hf hn _ _ _ rfl rfl rfl
  have raise {r : FaultRecord} (h : layoutOp s = .error (.raise r)) :
      exec .layout s = .next { s with fault := some r } :=
    exec_exclusive_of_raise rfl hf hn h
  have hstop : (layoutFor s.cfg).stop = 12 * s.cfg.n + 2 * s.cfg.mtu * s.cfg.n + 8 := by rw [layoutFor_eq]
  refine ⟨fun hset => raise (layoutOp_of_set hset), fun hset =>
    ⟨fun hparams => raise (layoutOp_of_badParam hset hparams), fun hpos hmod hge hle => ?_⟩⟩
  have hparams : paramsLegal s.cfg := ⟨hpos, hmod, hge, hle⟩
  rw [← hstop]
  refine ⟨fun hsize => raise (layoutOp_of_tooSmall hset hparams hsize), fun hsize => ⟨?rxd, ?txd, ?dmy, ?aligned⟩⟩
  case rxd =>
    exact fun hrxd => raise (layoutOp_of_misaligned hset hparams hsize (firstMisaligned_layoutFor_of_rxd hrxd))
  case txd =>
    exact fun hrxd htxd =>
      raise (layoutOp_of_misaligned hset hparams hsize (firstMisaligned_layoutFor_of_txd hrxd htxd))
  case dmy =>
    exact fun hrxd htxd hdmy =>
      raise (layoutOp_of_misaligned hset hparams hsize (firstMisaligned_layoutFor_of_dmy hrxd htxd hdmy))
  case aligned =>
    intro hrxd htxd hdmy
    have haligned := firstMisaligned_layoutFor_of_aligned hrxd htxd hdmy
    refine ⟨fun hpa => raise (layoutOp_of_paOverflow hset hparams hsize haligned hpa),
      fun hpa hva => raise (layoutOp_of_vaOverflow hset hparams hsize haligned hpa hva), fun hpa hva => ?_⟩
    have hop := layoutOp_ok_iff.mpr ⟨hset, ⟨hparams, hsize, haligned, hpa, hva⟩, rfl⟩
    have heffect := exec_exclusive_of_ok (i := .layout) rfl hf hn hop
    rw [layoutFor_eq] at heffect ⊢
    exact heffect

/-- Settles O13: an odd depth puts the TX table or the dummy record at an offset that is no multiple of 8; with bases
that are multiples of 8 an even one puts neither there. -/
theorem evenRingDepthAligns : Obligations.EvenRingDepthAligns := by
  intro s hf hn hset hpos hmod hge hle hsize
  have hparams : paramsLegal s.cfg := ⟨hpos, hmod, hge, hle⟩
  have hfits : (layoutFor s.cfg).stop ≤ s.cfg.size := by rw [layoutFor_eq]; exact hsize
  have misaligned (h : (4 * s.cfg.n + s.cfg.mtu * s.cfg.n) % 8 ≠ 0 ∨ (12 * s.cfg.n + 2 * s.cfg.mtu * s.cfg.n) % 8 ≠ 0) :
      ∃ x, exec .layout s = .next { s with fault := some (.cfgMisaligned x) } := by
    have hsome : ∃ x, (layoutFor s.cfg).firstMisaligned = some x := by
      by_cases hrxd : AlignedAt s.cfg 0 4
      · by_cases htxd : AlignedAt s.cfg (4 * s.cfg.n + s.cfg.mtu * s.cfg.n) 8
        · exact ⟨_, firstMisaligned_layoutFor_of_dmy hrxd htxd fun hdmy => h.elim (· htxd.1) (· hdmy.1)⟩
        · exact ⟨_, firstMisaligned_layoutFor_of_txd hrxd htxd⟩
      · exact ⟨_, firstMisaligned_layoutFor_of_rxd hrxd⟩
    obtain ⟨x, hx⟩ := hsome
    exact ⟨x, exec_exclusive_of_raise rfl hf hn (layoutOp_of_misaligned hset hparams hfits hx)⟩
  have hodd (h : s.cfg.n % 2 = 1) : ∃ x, exec .layout s = .next { s with fault := some (.cfgMisaligned x) } := by
    refine misaligned ?_
    rw [Nat.mul_assoc 2]
    exact misaligned_of_odd h
  refine ⟨hodd, misaligned, fun hpa hva => ⟨fun ⟨x, hx⟩ => ?_, hodd⟩⟩
  by_contra heven
  obtain ⟨hrxd, htxd, hdmy⟩ := aligned_of_even (by omega) hmod hpa hva
  have haligned := firstMisaligned_layoutFor_of_aligned hrxd htxd hdmy
  exact layoutOp_ne_misaligned hset hparams hfits haligned x (op_raised rfl hn hx)

end

section
/-! SUPPORT. What `DRV_INIT` leaves in memory, and where its fault comes from (44_driver.md R257; 30_encoding.md
R132). -/

namespace Sys2Proof.Machine

variable {s : State} {c : Config}

section
variable (m : Memory) {i : Nat} (hi : i < c.n)
include hi

/-- The RX words are written first, and what follows misses them. -/
theorem readWord_writeTables_rxd :
    (m.writeTables c).readWord ((layoutFor c).rxdOff i) = some (rxEntry c (layoutFor c) i) := by
  unfold Memory.writeTables
  rw [readWord_rxd_of_writeDummy hi, readWord_rxd_of_txTable hi, readWord_store_rxTable _ _ _ hi]

theorem readWord_writeTables_txd0 :
    (m.writeTables c).readWord ((layoutFor c).txd0Off i) = some (paWord ((layoutFor c).txbPa c.mtu i)) := by
  unfold Memory.writeTables
  rw [(readWord_txd_of_writeDummy hi).1, readWord_store_txTable_addr _ _ _ hi]

theorem readWord_writeTables_txd1 :
    (m.writeTables c).readWord ((layoutFor c).txd1Off i) = some (txSetupStatus (i + 1 == c.n)) := by
  unfold Memory.writeTables
  rw [(readWord_txd_of_writeDummy hi).2, readWord_store_txTable_status _ _ _ hi]

end

theorem drvInitOp_of_layout_error {e : Stop} (h : layoutOp s = .error e) : drvInitOp s = .error e := by
  unfold drvInitOp
  rw [h, Attempt.error_bind]

/-- A list's first command, behind its handle check, completes and hands the state it leaves to the rest. -/
theorem execList_cons_of_ok {i : Instr} {is : List Instr} {op : State → Attempt State} {u : State} {r : Result}
    (hb : bodyOf i = exclusive i op) (hf : s.fault = none) (hn : s.noHandle) (hop : op s = .ok u)
    (hrest : execList is (Instr.done i u) = r) : execList (i :: is) s = r := by
  rw [execList, exec_exclusive_of_ok hb hf hn hop]
  exact hrest

/-- The seven commands of `INIT_SEQ`, one after another, from a state in which nothing is set up. -/
theorem execList_initSeq (hf : s.fault = none) (hn : s.noHandle) (h : Initializable s) :
    execList (Pseudo.initSeq.expand (layoutFor s.cfg)) s = .next { s.initialized with pc := s.pc + 7 } := by
  obtain ⟨hlayout, haccepts, hrx, htx, hdmy, hrxq, htxq, htxq1⟩ := h
  obtain ⟨hrxd, htxd, hdmyd⟩ := bases_toNat haccepts
  obtain ⟨hrxSize, htxSize, hdmySize⟩ := tables_inside haccepts
  refine execList_cons_of_ok rfl hf hn (layoutOp_ok_iff.mpr ⟨hlayout, haccepts, rfl⟩) ?_
  refine execList_cons_of_ok rfl hf hn (rxSetupOp_ok_iff.mpr ⟨rfl, hrx, _, rfl, hrxSize, rfl⟩) ?_
  refine execList_cons_of_ok rfl hf hn (txSetupOp_ok_iff.mpr ⟨rfl, htx, _, rfl, htxSize, rfl⟩) ?_
  refine execList_cons_of_ok rfl hf hn (dummySetupOp_ok_iff.mpr ⟨rfl, hdmy, _, rfl, hdmySize, rfl⟩) ?_
  refine execList_cons_of_ok rfl hf hn (devSetRxqBaseOp_ok_iff.mpr ⟨hrxq, rfl, _, rfl, hrxd, rfl⟩) ?_
  refine execList_cons_of_ok rfl hf hn (devSetTxqBaseOp_ok_iff.mpr ⟨htxq, rfl, _, rfl, htxd, rfl⟩) ?_
  exact execList_cons_of_ok rfl hf hn (devSetTxq1BaseOp_ok_iff.mpr ⟨htxq1, rfl, _, rfl, hdmyd, rfl⟩) rfl

end Sys2Proof.Machine
end

section
/-! PROOFS. `DRV_INIT` (44_driver.md R257) and its expansion (30_encoding.md R132). -/

open Sys2Proof Sys2Proof.Machine

/-- Settles O23: a fault of `DRV_INIT`'s first step is its own; past it nothing can fail, and the words it leaves are
those of the three setups. -/
theorem drvInitRule : Obligations.DrvInitRule := by
  intro s hf
  refine ⟨exec_exclusive_of_held rfl hf, fun r hn h => ?fault, ?effect⟩
  case fault => exact exec_exclusive_of_raise rfl hf hn (drvInitOp_of_layout_error (op_raised rfl hn h))
  case effect =>
    rintro hn hlayout hrx htx hdmy hrxq htxq htxq1 haccepts _ rfl
    have hinit : Initializable s := ⟨hlayout, haccepts, hrx, htx, hdmy, hrxq, htxq, htxq1⟩
    refine ⟨s.mem.writeTables s.cfg, exec_exclusive_of_ok rfl hf hn (drvInitOp_eq_of_initializable hinit),
      fun i hi => ⟨?rxd, ?txd0, ?txd1⟩, ?dmy0, ?dmy1⟩
    case rxd => rw [← rxEntry_eq]; exact readWord_writeTables_rxd s.mem hi
    case txd0 => rw [← paWord_txbPa]; exact readWord_writeTables_txd0 s.mem hi
    case txd1 => rw [← txSetupStatus_eq]; exact readWord_writeTables_txd1 s.mem hi
    case dmy0 => exact readWord_writeDummy_addr _ _
    case dmy1 => rw [← dummyStatus_eq]; exact readWord_writeDummy_status _ _

/-- Settles O24: where `DRV_INIT` raises no fault nothing is set up, so no command of the sequence does either. -/
theorem initSeqIsDrvInit : Obligations.InitSeqIsDrvInit := by
  intro s t h hf
  obtain ⟨hsafe, -⟩ := exec_next_iff.mp h
  obtain ⟨u, hu, rfl⟩ := exec_effect h hf
  obtain ⟨hrx, htx, hop⟩ := exclusive_ok_iff.mp hu
  obtain ⟨hinit, rfl⟩ := drvInitOp_ok_iff_initialized.mp hop
  exact execList_initSeq hsafe ⟨hrx, htx⟩ hinit

end

section
/-! SUPPORT. The words and the faults of the claim and of the handle commands (41_rx_ring.md R172; 42_tx_ring.md R202,
R203; 44_driver.md R244 to R249). -/

namespace Sys2Proof.Machine

variable {s : State}

theorem rxRecvNextOp_of_uninit (h : s.rxState = .uninit) : rxRecvNextOp s = .error (.raise (.notSetup .rxRecvNext)) :=
  require_bind_of_not _ _ (by simp [h])

theorem rxRecvNextOp_of_borrowed {b : Nat} (hr : s.rxState = .ready) (hb : s.rxBorrow = some b) :
    rxRecvNextOp s = .error (.raise (.rxBorrowOpen b)) := by
  unfold rxRecvNextOp requireNoBorrow
  rw [require_bind_of _ _ hr, hb, Attempt.error_bind]

theorem requireNoBorrow_bind_of {α : Type} (f : Unit → Attempt α) (h : s.rxBorrow = none) :
    (requireNoBorrow s >>= f) = f () := by
  rw [requireNoBorrow_ok_iff (u := ()) |>.mpr h, Attempt.ok_bind]

theorem rxRecvNextOp_of_hwOwned {c : Nat} {L : Layout} {w : Word} (hb : s.rxBorrow = none)
    (hword : rxCursorWord .rxRecvNext s = .ok (c, L, w)) (hw : rxOwn w = false) :
    rxRecvNextOp s = .error (.raise (.rxRecvNotReady c)) := by
  unfold rxRecvNextOp
  rw [require_bind_of _ _ (rxCursorWord_ok_iff.mp hword).1, requireNoBorrow_bind_of _ hb, hword, Attempt.ok_bind]
  exact require_bind_of_not _ _ (by simp [hw])

/-- A receive handle's BEGIN is `RX_RECV_NEXT` behind its own handle checks. -/
theorem rxhBeginOp_of_live (hlive : s.hrx = .live) (hnot : s.htx ≠ .active) :
    rxhBeginOp s = (rxRecvNextOp s >>= fun u => .ok { u with hrx := .active }) := by
  unfold rxhBeginOp
  rw [require_bind_of _ _ hlive, require_bind_of _ _ hnot]

theorem rxhBeginOp_of_raise {e : Stop} (hlive : s.hrx = .live) (hnot : s.htx ≠ .active)
    (h : rxRecvNextOp s = .error e) : rxhBeginOp s = .error e := by
  rw [rxhBeginOp_of_live hlive hnot, h, Attempt.error_bind]

theorem rxhBeginOp_of_violation (h : s.hrx ≠ .live ∨ s.htx = .active) :
    rxhBeginOp s = .error (.raise (.handleViolation .rxhBegin s.hrx s.htx)) := by
  unfold rxhBeginOp
  by_cases hlive : s.hrx = .live
  · rw [require_bind_of _ _ hlive]
    exact require_bind_of_not _ _ (not_not_intro (h.resolve_left (not_not_intro hlive)))
  · exact require_bind_of_not _ _ hlive

theorem rxhEndOp_of_inactive (r : Word) (h : s.hrx ≠ .active) :
    rxhEndOp r s = .error (.raise (.handleViolation (.rxhEnd r) s.hrx s.htx)) :=
  require_bind_of_not _ _ h

theorem rxhEndOp_of_raise (r : Word) {e : Stop} (hactive : s.hrx = .active) (h : rxMarkDoneOp s = .error e) :
    rxhEndOp r s = .error e := by
  unfold rxhEndOp
  rw [require_bind_of _ _ hactive, h, Attempt.error_bind]

/-- The claimed word with its masks written out (42_tx_ring.md R203). -/
theorem txClaimed_eq (w : Word) (len : Nat) :
    txClaimed w len = (w &&& 0x40000000) ||| 0x00008000 ||| BitVec.ofNat 32 len := rfl

/-- A length argument's number as a word is the argument. -/
theorem ofNat_lenOf (len : Word) : BitVec.ofNat 32 (lenOf len) = len := BitVec.ofNat_toNat 32 len

section
variable {len : Nat}

theorem txGetNextBufferOp_of_uninit (h : s.txState = .uninit) :
    txGetNextBufferOp len s = .error (.raise (.notSetup (.txGetNextBuffer (BitVec.ofNat 32 len)))) :=
  require_bind_of_not _ _ (by simp [h])

theorem txGetNextBufferOp_of_claimed {k : Claim} (hr : s.txState = .ready) (hk : s.txClaim = some k) :
    txGetNextBufferOp len s = .error (.raise (.txClaimPending k.slot)) := by
  unfold txGetNextBufferOp requireNoClaim
  rw [require_bind_of _ _ hr, hk, Attempt.error_bind]

theorem requireNoClaim_bind_of {α : Type} (f : Unit → Attempt α) (h : s.txClaim = none) :
    (requireNoClaim s >>= f) = f () := by
  rw [requireNoClaim_ok_iff (u := ()) |>.mpr h, Attempt.ok_bind]

theorem txGetNextBufferOp_of_oversize (hr : s.txState = .ready) (hk : s.txClaim = none) (hlen : s.cfg.mtu < len) :
    txGetNextBufferOp len s = .error (.raise (.txLenOversize len)) := by
  unfold txGetNextBufferOp
  rw [require_bind_of _ _ hr, requireNoClaim_bind_of _ hk]
  exact require_bind_of_not _ _ (Nat.not_le.mpr hlen)

theorem txGetNextBufferOp_of_hwOwned {c : Nat} {L : Layout} {w : Word} (hr : s.txState = .ready)
    (hk : s.txClaim = none) (hlen : len ≤ s.cfg.mtu) (hword : txCursorWord s = .ok (c, L, w)) (hw : txUsed w = false) :
    txGetNextBufferOp len s = .error (.raise (.txSlotNotFree c)) := by
  unfold txGetNextBufferOp
  rw [require_bind_of _ _ hr, requireNoClaim_bind_of _ hk, require_bind_of _ _ hlen, hword, Attempt.ok_bind]
  exact require_bind_of_not _ _ (by simp [hw])

end

theorem txhBeginOp_of_violation (len : Word) (h : s.htx ≠ .live ∨ s.hrx = .active) :
    txhBeginOp len s = .error (.raise (.handleViolation (.txhBegin len) s.hrx s.htx)) := by
  unfold txhBeginOp
  by_cases hlive : s.htx = .live
  · rw [require_bind_of _ _ hlive]
    exact require_bind_of_not _ _ (not_not_intro (h.resolve_left (not_not_intro hlive)))
  · exact require_bind_of_not _ _ hlive

/-- The sticky mark is set where a length is too long (44_driver.md R248). -/
def State.markIf (s : State) (long : Bool) : State := { s with oversizeMarker := s.oversizeMarker || long }

/-- A transmit handle's BEGIN that claims `n` bytes: the argument's length, or `MTU` with the mark set. -/
theorem txhBeginOp_of_claims {len : Word} {n : Nat} (hlive : s.htx = .live) (hnot : s.hrx ≠ .active)
    (hn : (len.toNat ≤ s.cfg.mtu ∧ n = len.toNat) ∨
      (s.cfg.mtu < len.toNat ∧ s.cfg.oversizePolicy = .truncate ∧ n = s.cfg.mtu)) :
    txhBeginOp len s =
      (txGetNextBufferOp n (s.markIf (decide (s.cfg.mtu < len.toNat))) >>= fun u => .ok { u with htx := .active }) := by
  unfold txhBeginOp State.markIf
  rw [require_bind_of _ _ hlive, require_bind_of _ _ hnot]
  obtain ⟨hfits, rfl⟩ | ⟨hlong, hpolicy, rfl⟩ := hn
  · rw [if_pos (show lenOf len ≤ s.cfg.mtu from hfits), decide_eq_false (Nat.not_lt.mpr hfits), Bool.or_false]
    rfl
  · rw [if_neg (show ¬ lenOf len ≤ s.cfg.mtu from Nat.not_le.mpr hlong), hpolicy, decide_eq_true hlong, Bool.or_true]

theorem txhEndOp_of_inactive (r : Word) (h : s.htx ≠ .active) :
    txhEndOp r s = .error (.raise (.handleViolation (.txhEnd r) s.hrx s.htx)) :=
  require_bind_of_not _ _ h

theorem txhEndOp_of_raise (r : Word) {e : Stop} (hactive : s.htx = .active) (h : txSendCompleteOp s = .error e) :
    txhEndOp r s = .error e := by
  unfold txhEndOp
  rw [require_bind_of _ _ hactive, h, Attempt.error_bind]

theorem txhEndOp_of_kick_raise (r : Word) {u : State} {a : Word} {e : Stop} (hactive : s.htx = .active)
    (hsend : txSendCompleteOp s = .ok (u, a)) (h : devKickOp a u = .error e) : txhEndOp r s = .error e := by
  unfold txhEndOp
  rw [require_bind_of _ _ hactive, hsend, Attempt.ok_bind]
  exact congrArg (· >>= _) h

end Sys2Proof.Machine
end

section
/-! PROOFS. The rules of `RX_RECV_NEXT` and `TX_GET_NEXT_BUFFER`, and of the handles' BEGIN and END commands. -/

open Sys2Proof Sys2Proof.Machine

/-- Settles O16: an open borrow is checked first; then the cursor's ownership bit decides. -/
theorem rxRecvNextRule : Obligations.RxRecvNextRule := by
  intro s hf
  refine ⟨exec_exclusive_of_held rfl hf,
    fun hn hu => exec_exclusive_of_raise rfl hf hn (rxRecvNextOp_of_uninit hu),
    fun b hn hr hb => exec_exclusive_of_raise rfl hf hn (rxRecvNextOp_of_borrowed hr hb), ?_⟩
  intro c L w hn hr hb hc hL hsize hw
  have hword : rxCursorWord .rxRecvNext s = .ok (c, L, w) := rxCursorWord_ok_iff.mpr ⟨hr, hc, hL, hsize, hw⟩
  refine ⟨fun hown => exec_exclusive_of_raise rfl hf hn (rxRecvNextOp_of_hwOwned hb hword hown), fun hown => ?_⟩
  exact exec_exclusive_of_ok rfl hf hn (rxRecvNextOp_ok_iff.mpr ⟨hb, c, L, w, hword, hown, rfl⟩)

/-- Settles O20: the claim, the length and the cursor's ownership bit are checked in that order. -/
theorem txGetNextBufferRule : Obligations.TxGetNextBufferRule := by
  intro s len hf
  refine ⟨exec_exclusive_of_held rfl hf, fun hn hu => ?uninit,
    fun k hn hr hk => exec_exclusive_of_raise rfl hf hn (txGetNextBufferOp_of_claimed hr hk),
    fun hn hr hk hlen => exec_exclusive_of_raise rfl hf hn (txGetNextBufferOp_of_oversize hr hk hlen), ?claim⟩
  case uninit =>
    have hop := txGetNextBufferOp_of_uninit (len := lenOf len) hu
    rw [ofNat_lenOf] at hop
    exact exec_exclusive_of_raise rfl hf hn hop
  case claim =>
    intro c L w hn hr hk hlen hc hL hsize hw
    have hword : txCursorWord s = .ok (c, L, w) := txCursorWord_ok_iff.mpr ⟨hc, hL, hsize, hw⟩
    refine ⟨fun hown => exec_exclusive_of_raise rfl hf hn (txGetNextBufferOp_of_hwOwned hr hk hlen hword hown),
      fun hown => ?_⟩
    have hop := txGetNextBufferOp_ok_iff.mpr ⟨hr, hk, hlen, c, L, w, hword, hown, rfl⟩
    rw [txClaimed_eq, BitVec.ofNat_toNat, BitVec.setWidth_eq] at hop
    exact exec_exclusive_of_ok rfl hf hn hop

/-- Settles O27: behind the two handle checks the rule is `RX_RECV_NEXT`'s. -/
theorem rxhBeginRule : Obligations.RxhBeginRule := by
  intro s hf
  refine ⟨fun h => exec_of_raise (i := .rxhBegin) hf (rxhBeginOp_of_violation h),
    fun hlive hnot hu => ?uninit, fun b hlive hnot hr hb => ?borrowed, ?ready⟩
  case uninit =>
    exact exec_of_raise (i := .rxhBegin) hf (rxhBeginOp_of_raise hlive hnot (rxRecvNextOp_of_uninit hu))
  case borrowed =>
    exact exec_of_raise (i := .rxhBegin) hf (rxhBeginOp_of_raise hlive hnot (rxRecvNextOp_of_borrowed hr hb))
  case ready =>
    intro c L w hlive hnot hr hb hc hL hsize hw
    have hword : rxCursorWord .rxRecvNext s = .ok (c, L, w) := rxCursorWord_ok_iff.mpr ⟨hr, hc, hL, hsize, hw⟩
    refine ⟨fun hown => ?hwOwned, fun hown => ?swOwned⟩
    case hwOwned =>
      have hop := rxRecvNextOp_of_hwOwned hb hword hown
      exact exec_of_raise (i := .rxhBegin) hf (rxhBeginOp_of_raise hlive hnot hop)
    case swOwned =>
      have hop := rxRecvNextOp_ok_iff.mpr ⟨hb, c, L, w, hword, hown, rfl⟩
      exact exec_of_ok (i := .rxhBegin) hf (rxhBeginOp_ok_iff.mpr ⟨hlive, hnot, _, hop, rfl⟩)

/-- Settles O28: behind the handle check the rule is `RX_MARK_DONE`'s. -/
theorem rxhEndRule : Obligations.RxhEndRule := by
  intro s r hf
  refine ⟨fun h => exec_of_raise (i := .rxhEnd r) hf (rxhEndOp_of_inactive r h), fun hactive hu => ?uninit, ?ready⟩
  case uninit =>
    exact exec_of_raise (i := .rxhEnd r) hf (rxhEndOp_of_raise r hactive (rxMarkDoneOp_of_uninit hu))
  case ready =>
    intro c L w hactive hr hc hL hsize hw
    have hword : rxCursorWord .rxMarkDone s = .ok (c, L, w) := rxCursorWord_ok_iff.mpr ⟨hr, hc, hL, hsize, hw⟩
    refine ⟨fun hown => ?hwOwned, fun hown => ?swOwned⟩
    case hwOwned =>
      have hop := rxMarkDoneOp_of_hwOwned hword hown
      exact exec_of_raise (i := .rxhEnd r) hf (rxhEndOp_of_raise r hactive hop)
    case swOwned =>
      have hop := rxMarkDoneOp_ok_iff.mpr ⟨c, L, w, hword, hown, rfl⟩
      rw [← rxReleased_eq]
      exact exec_of_ok (i := .rxhEnd r) hf (rxhEndOp_ok_iff.mpr ⟨hactive, _, hop, rfl⟩)

/-- Settles O29: behind the two handle checks the length decides between the rejection and a claim, which is
`TX_GET_NEXT_BUFFER`'s rule of the length or of `MTU`. -/
theorem txhBeginRule : Obligations.TxhBeginRule := by
  intro s len hf
  refine ⟨fun h => exec_of_raise (i := .txhBegin len) hf (txhBeginOp_of_violation len h),
    fun hlive hnot hlong hpolicy => ?reject, fun n hlive hnot hn => ?claims⟩
  case reject =>
    exact exec_of_ok (i := .txhBegin len) hf
      (txhBeginOp_ok_iff.mpr ⟨hlive, hnot, .inr (.inr ⟨hlong, hpolicy, rfl⟩)⟩)
  case claims =>
    have hop := txhBeginOp_of_claims hlive hnot hn
    have hlen : n ≤ s.cfg.mtu := by omega
    have raise {r : FaultRecord}
        (h : txGetNextBufferOp n (s.markIf (decide (s.cfg.mtu < len.toNat))) = .error (.raise r)) :
        exec (.txhBegin len) s = .next { s with fault := some r } := by
      rw [h, Attempt.error_bind] at hop
      exact exec_of_raise (i := .txhBegin len) hf hop
    refine ⟨fun hu => raise (txGetNextBufferOp_of_uninit hu),
      fun k hr hk => raise (txGetNextBufferOp_of_claimed hr hk), fun c L w hr hk hc hL hsize hw => ?_⟩
    have hword : txCursorWord (s.markIf (decide (s.cfg.mtu < len.toNat))) = .ok (c, L, w) :=
      txCursorWord_ok_iff.mpr ⟨hc, hL, hsize, hw⟩
    refine ⟨fun hown => raise (txGetNextBufferOp_of_hwOwned hr hk hlen hword hown), fun hown => ?_⟩
    have hclaim := (txGetNextBufferOp_ok_iff (s := s.markIf _)).mpr ⟨hr, hk, hlen, c, L, w, hword, hown, rfl⟩
    rw [hclaim, Attempt.ok_bind] at hop
    exact exec_of_ok (i := .txhBegin len) hf hop

/-- Settles O30: behind the handle check the rule is `TX_SEND_COMPLETE`'s, and then `DEV_KICK`'s with the address that
gives. -/
theorem txhEndRule : Obligations.TxhEndRule := by
  intro s r hf
  refine ⟨fun h => exec_of_raise (i := .txhEnd r) hf (txhEndOp_of_inactive r h), fun hactive hu => ?uninit,
    fun c hactive hr hc => ⟨fun hk => ?unclaimed, fun L hk hL => ?committed⟩⟩
  case uninit =>
    exact exec_of_raise (i := .txhEnd r) hf (txhEndOp_of_raise r hactive (txSendCompleteOp_of_uninit hu))
  case unclaimed =>
    exact exec_of_raise (i := .txhEnd r) hf (txhEndOp_of_raise r hactive (txSendCompleteOp_of_unclaimed hr hc hk))
  case committed =>
    have hsend := txSendCompleteOp_ok_iff.mpr ⟨hr, c, L, hc, hk, hL, rfl, rfl⟩
    refine ⟨fun hunset => ?unprogrammed, fun hset hpa => ?programmed⟩
    case unprogrammed =>
      exact exec_of_raise (i := .txhEnd r) hf
        (txhEndOp_of_kick_raise r hactive hsend (devKickOp_of_unprogrammed hunset))
    case programmed =>
      have haddr : (paWord (L.txdPa c)).toNat = L.txdPa c :=
        (BitVec.toNat_ofNat _ _).trans (Nat.mod_eq_of_lt hpa)
      refine ⟨fun hle => ?badAddr, fun hlt => ?kick⟩
      case badAddr =>
        have hnot : ∀ i < s.cfg.n, (paWord (L.txdPa c)).toNat ≠ L.txdPa i := by
          intro i hi heq
          rw [haddr] at heq
          simp only [Layout.txdPa, Config.TXD] at heq
          omega
        exact exec_of_raise (i := .txhEnd r) hf
          (txhEndOp_of_kick_raise r hactive hsend (devKickOp_of_badAddr hset hL hnot))
      case kick =>
        have hdesc : L.isTxDescriptor s.cfg.n (paWord (L.txdPa c)) = true :=
          Layout.isTxDescriptor_iff.mpr ⟨c, hlt, haddr⟩
        exact exec_of_ok (i := .txhEnd r) hf
          (txhEndOp_ok_iff.mpr ⟨hactive, _, _, _, hsend, devKickOp_of hset hL hdesc, rfl⟩)

end

section
/-! SUPPORT. The DMA agent's two frame steps by the branch each check takes (45_dma_engine.md R295, R296, R302 to
R306). -/

namespace Sys2Proof.Machine

variable {s : State}

theorem dmaBuffer_of_outside {ring : Ring} {a n : Nat} (h : a < s.cfg.paBase ∨ s.cfg.paBase + s.cfg.size < a + n) :
    dmaBuffer ring a n s = .error (.raise (.dmaAddrOutOfRegion ring a)) := by
  unfold dmaBuffer dmaRange?
  rw [if_neg (by omega)]

/-- The last slot's advance without its end-of-ring bit leaves the table. -/
theorem dmaAdvance_of_offTable {ring : Ring} {i : Nat} (h : s.cfg.n ≤ i + 1) :
    dmaAdvance ring i false s = .error (.raise (.dmaOffTable ring i)) := by
  unfold dmaAdvance dmaNext?
  rw [if_neg Bool.false_ne_true, if_neg (Nat.not_lt.mpr h)]

theorem dmaNext?_of_inTable {n i : Nat} {e : Bool} (h : e = true ∨ i + 1 < n) :
    dmaNext? n i e = some (if e then 0 else i + 1) := by
  cases e with
  | true => rfl
  | false => exact if_pos (h.resolve_left nofun)

/-- `DMA_RX_FRAME` at an enabled head that is the hardware's (45_dma_engine.md R302). -/
theorem dmaRxFrameOp_of_hwOwned {i : Nat} {L : Layout} {w : Word} (hon : s.rxEnabled = true)
    (hhead : rxHead s = .ok (i, L, w)) (hown : rxOwn w = false) : dmaRxFrameOp s = dmaStoreFrame i L w s := by
  unfold dmaRxFrameOp
  rw [if_pos hon, hhead, Attempt.ok_bind]
  exact if_neg (by simp [hown])

/-- `DMA_TX_FRAME` at a running engine's tail that is in flight (45_dma_engine.md R304). -/
theorem dmaTxFrameOp_of_busy {i : Nat} {L : Layout} {w : Word} (hon : s.txRunning = true)
    (htail : txTail s = .ok (i, L, w)) (hused : txUsed w = false) : dmaTxFrameOp s = dmaSendFrame i L w s := by
  unfold dmaTxFrameOp
  rw [if_pos hon, htail, Attempt.ok_bind]
  exact if_neg (by simp [hused])

section
variable {i : Nat} {L : Layout} {w : Word}

theorem dmaStoreFrame_of_outside
    (h : (rxAddr w).toNat < s.cfg.paBase ∨ s.cfg.paBase + s.cfg.size < (rxAddr w).toNat + s.cfg.mtu) :
    dmaStoreFrame i L w s = .error (.raise (.dmaAddrOutOfRegion .rx (rxAddr w).toNat)) := by
  unfold dmaStoreFrame
  rw [dmaBuffer_of_outside h, Attempt.error_bind]

theorem dmaStoreFrame_of_offTable (hlow : s.cfg.paBase ≤ (rxAddr w).toNat)
    (hhigh : (rxAddr w).toNat + s.cfg.mtu ≤ s.cfg.paBase + s.cfg.size) (hwrap : rxWrap w = false)
    (hn : s.cfg.n ≤ i + 1) : dmaStoreFrame i L w s = .error (.raise (.dmaOffTable .rx i)) := by
  unfold dmaStoreFrame
  rw [dmaBuffer_ok_iff.mpr ⟨hlow, hhigh, rfl⟩, Attempt.ok_bind, hwrap, dmaAdvance_of_offTable hn, Attempt.error_bind]

theorem dmaSendFrame_of_claimed (h : s.txClaim.map Claim.slot = some i) :
    dmaSendFrame i L w s = .error (.raise (.txDmaBeforeCommit i)) :=
  require_bind_of_not _ _ (not_not_intro h)

variable {aw : Word} (hclaim : s.txClaim.map Claim.slot ≠ some i) (haddr : s.dmaWord (L.txd0Off i) = .ok aw)
include hclaim haddr

theorem dmaSendFrame_of_outside
    (h : aw.toNat < s.cfg.paBase ∨ s.cfg.paBase + s.cfg.size < aw.toNat + txLen w) :
    dmaSendFrame i L w s = .error (.raise (.dmaAddrOutOfRegion .tx aw.toNat)) := by
  unfold dmaSendFrame requireCommitted
  rw [require_bind_of _ _ hclaim, haddr, Attempt.ok_bind, dmaBuffer_of_outside h, Attempt.error_bind]

theorem dmaSendFrame_of_offTable (hlow : s.cfg.paBase ≤ aw.toNat)
    (hhigh : aw.toNat + txLen w ≤ s.cfg.paBase + s.cfg.size) (hwrap : txWrap w = false) (hn : s.cfg.n ≤ i + 1) :
    dmaSendFrame i L w s = .error (.raise (.dmaOffTable .tx i)) := by
  unfold dmaSendFrame requireCommitted
  rw [require_bind_of _ _ hclaim, haddr, Attempt.ok_bind, dmaBuffer_ok_iff.mpr ⟨hlow, hhigh, rfl⟩, Attempt.ok_bind,
    hwrap, dmaAdvance_of_offTable hn, Attempt.error_bind]

end

/-- A pinned byte of a drawn frame stands in its place (45_dma_engine.md R303). -/
theorem State.frameDraw_of_pinned {j : Nat} {b : Byte} (hj : j < s.cfg.mtu) (h : s.draw.data[j]? = some b) :
    s.frameDraw[j]? = some b := by
  rw [State.frameDraw, List.getElem?_map, List.getElem?_range hj, Option.map_some, State.dataDraw, h, Option.getD_some]

/-- A written byte of a buffer stands in its place of the frame (45_dma_engine.md R306). -/
theorem State.frameAt_of_written {off n j : Nat} {b : Byte} (hj : j < n) (h : s.mem.read (off + j) = some b) :
    (s.frameAt off n)[j]? = some b := by
  rw [State.frameAt, List.getElem?_map, List.getElem?_range hj, Option.map_some, State.dmaByte, h, Option.getD_some]

theorem State.statDraw_of_pinned {v : BitVec 14} (h : s.draw.stat = some v) : s.statDraw = v := by
  rw [State.statDraw, h, Option.getD_some]

/-- The length field as a mask (30_encoding.md R117). -/
theorem txLen_eq (w : Word) : txLen w = (w &&& 0x00003FFF).toNat := by
  rw [txLen, BitVec.extractLsb'_toNat, Nat.shiftRight_zero, BitVec.toNat_and]
  exact (Nat.and_two_pow_sub_one_eq_mod w.toNat 14).symm

/-- The sent word with its masks written out (45_dma_engine.md R306). -/
theorem txSent_eq (w : Word) (stat : BitVec 14) :
    txSent w stat = (w &&& 0xC000FFFF) ||| 0x80000000 ||| (stat.setWidth 32 <<< 16) := by
  have hmask : ~~~TX_STAT_MASK = 0xC000FFFF := by decide
  rw [txSent, hmask]
  rfl

end Sys2Proof.Machine
end

section
/-! PROOFS. The rules of `DMA_RX_FRAME` and `DMA_TX_FRAME` (45_dma_engine.md R302 to R306). -/

open Sys2Proof Sys2Proof.Machine

/-- Settles O38: the buffer's address is checked before the advance; past both the frame is drawn and stored. -/
theorem dmaRxFrameRule : Obligations.DmaRxFrameRule := by
  rintro s i L w _ hf hon hi hL hsize hw hown rfl
  have hbody : bodyOf .dmaRxFrame s = dmaStoreFrame i L w s :=
    dmaRxFrameOp_of_hwOwned hon (rxHead_of_written hi hL hsize hw) hown
  refine ⟨fun hout => exec_of_raise hf (hbody.trans (dmaStoreFrame_of_outside hout)),
    fun hlow hhigh => ⟨fun hwrap hn => ?offTable, fun hnext => ?stored⟩⟩
  case offTable => exact exec_of_raise hf (hbody.trans (dmaStoreFrame_of_offTable hlow hhigh hwrap hn))
  case stored =>
    refine ⟨s.frameDraw, s.frameDraw_length, fun j b hj hb => State.frameDraw_of_pinned hj hb, ?_⟩
    have hop := dmaStoreFrame_ok_iff.mpr ⟨_, hlow, hhigh, dmaNext?_of_inTable hnext, hsize, rfl⟩
    exact exec_of_ok hf (hbody.trans hop)

/-- Settles O40: the claim, the buffer's address and the advance are checked in that order; past them the buffer is
read and sent. -/
theorem dmaTxFrameRule : Obligations.DmaTxFrameRule := by
  rintro s i L w aw _ _ hf hon hi hL hsize hw hused haw rfl rfl
  have hstatus : L.txd1Off i + 4 ≤ s.cfg.size := hsize
  have haddr : s.dmaWord (L.txd0Off i) = .ok aw :=
    State.dmaWord_of_written (by simp only [Layout.txd0Off, Config.TXD]; omega) haw
  have hbody : bodyOf .dmaTxFrame s = dmaSendFrame i L w s :=
    dmaTxFrameOp_of_busy hon (txTail_of_written hi hL hstatus hw) hused
  rw [← txLen_eq]
  refine ⟨fun hclaim => exec_of_raise hf (hbody.trans (dmaSendFrame_of_claimed hclaim)),
    fun hclaim => ⟨fun hout => ?outside, fun hlow hhigh => ⟨fun hwrap hn => ?offTable, fun hnext => ?sent⟩⟩⟩
  case outside => exact exec_of_raise hf (hbody.trans (dmaSendFrame_of_outside hclaim haddr hout))
  case offTable => exact exec_of_raise hf (hbody.trans (dmaSendFrame_of_offTable hclaim haddr hlow hhigh hwrap hn))
  case sent =>
    refine ⟨s.frameAt (aw.toNat - s.cfg.paBase) (txLen w), s.statDraw, s.frameAt_length _ _,
      fun j b hj hb => State.frameAt_of_written hj hb, fun v hv => State.statDraw_of_pinned hv, ?_⟩
    have hop := dmaSendFrame_ok_iff.mpr
      ⟨hclaim, aw, _, haddr, hlow, hhigh, dmaNext?_of_inTable hnext, hstatus, rfl⟩
    rw [← txSent_eq]
    exact exec_of_ok hf (hbody.trans hop)

end

section
/-! SUPPORT. A running engine step by step: what it sends, and where it stops (45_dma_engine.md R304 to R307). -/

namespace Sys2Proof.Machine

variable {s t : State} {p : Nat}

/-- The engine runs from position `p` with no claim open, where the tables are as setup wrote them. -/
structure EngineRuns (s : State) (p : Nat) : Prop where
  safe : s.fault = none
  setup : SetupInv s
  words : RingWordsInv s
  occupancy : TxOccupancy s
  running : s.txRunning = true
  unclaimed : s.txClaim = none
  tail : s.hwTxIdx = some p

/-- `frame` is what the engine sends from slot `i`: as long as its status word says, with each written byte of its
buffer in its place (45_dma_engine.md R306). -/
def IsFrameOf (s : State) (i : Nat) (frame : List Byte) : Prop :=
  ∃ w, s.mem.readWord ((layoutFor s.cfg).txd1Off i) = some w ∧ frame.length = txLen w ∧
    ∀ (k : Nat) (b : Byte), k < txLen w → s.mem.read ((layoutFor s.cfg).txbOff s.cfg.mtu i + k) = some b →
      frame[k]? = some b

theorem frameAt_isFrameOf {w : Word} (hread : s.mem.readWord ((layoutFor s.cfg).txd1Off p) = some w) (d : Draw) :
    IsFrameOf s p ((s.beginTurn d).frameAt ((layoutFor s.cfg).txbOff s.cfg.mtu p) (txLen w)) :=
  ⟨w, hread, State.frameAt_length _ _ _, fun _ _ hk hb => State.frameAt_of_written hk hb⟩

/-- Sending from slot `p` touches neither the status word nor the buffer of another slot. -/
theorem IsFrameOf.of_frameSent {i : Nat} {frame : List Byte} {w : Word} (h : IsFrameOf (s.frameSent p w) i frame)
    (hp : p < s.cfg.n) (hi : i < s.cfg.n) (hne : i ≠ p) : IsFrameOf s i frame := by
  obtain ⟨v, hread, hlen, hbytes⟩ := h
  refine ⟨v, ((wordsKept_txd1 hp).tx i hi hne).symm.trans hread, hlen, fun k b hk hb => hbytes k b hk ?_⟩
  refine (Memory.read_writeWord_outside (.inr ?_)).trans hb
  show (layoutFor s.cfg).txd1Off p + 4 ≤ (layoutFor s.cfg).txbOff s.cfg.mtu i + k
  rw [layoutFor_txd1Off, layoutFor_txbOff]
  omega

/-- The tail of a running engine, and its status word. -/
theorem EngineRuns.tailWord (h : EngineRuns s p) :
    ∃ w, p < s.cfg.n ∧ s.txState = .ready ∧ s.mem.readWord ((layoutFor s.cfg).txd1Off p) = some w ∧
      TxWordOk s.cfg p w ∧ txTail s = .ok (p, layoutFor s.cfg, w) ∧
      (!txUsed w) = decide (0 < txBusyCount s (layoutFor s.cfg)) := by
  obtain ⟨i, w, hlt, hr, hread, hok, hi, htail⟩ := txTail_of_inv h.setup h.words h.running
  obtain rfl : p = i := Option.some.inj (h.tail.symm.trans hi)
  exact ⟨w, hlt, hr, hread, hok, htail,
    (txBusy_of hread).symm.trans (txBusy_tail h.setup h.occupancy hr hi hlt)⟩

theorem EngineRuns.beginTurn (h : EngineRuns s p) (d : Draw) : EngineRuns (s.beginTurn d) p where
  safe := h.safe
  setup := h.setup.frame
  words := h.words.frame
  occupancy := h.occupancy
  running := h.running
  unclaimed := h.unclaimed
  tail := h.tail

/-- One frame of those in flight: the engine sends the tail's slot. -/
theorem EngineRuns.step_sends (h : EngineRuns s p) (hpos : 0 < txBusyCount s (layoutFor s.cfg)) {d : Draw}
    (hturn : s.nextTurn = .dma .txFrame d) :
    ∃ w, p < s.cfg.n ∧ s.mem.readWord ((layoutFor s.cfg).txd1Off p) = some w ∧ txUsed w = false ∧
      step s = .next ((s.beginTurn d).frameSent p w) := by
  obtain ⟨w, hlt, hr, hread, hok, htail, hused⟩ := (h.beginTurn d).tailWord
  have hbusy : 0 < txBusyCount (s.beginTurn d) (layoutFor (s.beginTurn d).cfg) := hpos
  rw [decide_eq_true hbusy, Bool.not_eq_true'] at hused
  have hclaim : (s.beginTurn d).txClaim.map Claim.slot ≠ some p := by
    rw [(h.beginTurn d).unclaimed]
    nofun
  have haddr := (h.beginTurn d).words.txAddr hr hlt
  have haccepts := ((h.beginTurn d).setup.tx_layout hr).2
  have hop : dmaTxFrameOp (s.beginTurn d) = .ok ((s.beginTurn d).frameSent p w) :=
    (dmaTxFrameOp_of_busy (h.beginTurn d).running htail hused).trans
      (dmaSendFrame_of_ok haccepts hlt haddr hok hused hclaim)
  refine ⟨w, hlt, hread, hused, (step_of_dma_turn h.safe hturn).trans ?_⟩
  exact exec_of_ok (i := .dmaTxFrame) h.safe hop

/-- The engine runs on past a frame it sent. -/
theorem EngineRuns.next (h : EngineRuns s p) {d : Draw} {w : Word} (hlt : p < s.cfg.n)
    (hread : s.mem.readWord ((layoutFor s.cfg).txd1Off p) = some w) (hused : txUsed w = false)
    (hstep : step s = .next ((s.beginTurn d).frameSent p w)) :
    EngineRuns ((s.beginTurn d).frameSent p w) (cursorNext s.cfg.n p) where
  safe := h.safe
  setup := setupInvariantKept _ _ h.setup hstep
  words := ringWordsKept _ _ h.setup h.words hstep
  occupancy := by
    obtain ⟨-, -, hr, -⟩ := h.tailWord
    have hclaim : (s.beginTurn d).txClaim.map Claim.slot ≠ some p := by
      rw [(h.beginTurn d).unclaimed]
      nofun
    exact frameSent_txOccupancy (h.beginTurn d).setup (h.beginTurn d).occupancy hr hlt h.tail hread hused hclaim
  running := h.running
  unclaimed := h.unclaimed
  tail := rfl

/-- With nothing in flight the engine stops. -/
theorem EngineRuns.step_stops (h : EngineRuns s p) (hcount : txBusyCount s (layoutFor s.cfg) = 0) {d : Draw}
    (hturn : s.nextTurn = .dma .txStop d) : step s = .next { s.beginTurn d with txRunning := false } := by
  obtain ⟨w, -, -, -, -, htail, hused⟩ := (h.beginTurn d).tailWord
  have hzero : ¬ 0 < txBusyCount (s.beginTurn d) (layoutFor (s.beginTurn d).cfg) := Nat.not_lt.mpr hcount.le
  rw [decide_eq_false hzero, Bool.not_eq_false'] at hused
  have hop : dmaTxStopOp (s.beginTurn d) = .ok { s.beginTurn d with txRunning := false } :=
    dmaTxStopOp_ok_iff.mpr (.inr ⟨h.running, p, _, w, htail, (if_pos hused).symm⟩)
  exact (step_of_dma_turn h.safe hturn).trans (exec_of_ok (i := .dmaTxStop) h.safe hop)

theorem nextTurn_of_agenda {u : Turn} {us : List Turn} (h : s.agenda = u :: us) : s.nextTurn = u := by
  unfold State.nextTurn
  rw [h]

theorem run_succ_of_next (M : Host.Core) {a b : M.State} (h : M.step a = .next b) (k : Nat) :
    M.run (k + 1) a = M.run k b := by
  simp only [Host.Core.run, h]

/-- The slots a run of `m + 1` frames comes to after its first are others than that one. -/
theorem ring_add_ne {n m p j : Nat} (hp : p < n) (hm : m + 1 ≤ n) (hj : j < m) : (p + (j + 1)) % n ≠ p := by
  rw [mod_of_lt_two_mul (by omega)]
  split <;> omega

/-- In `t` the engine has stopped with nothing in flight, having sent `frames` in ring order from slot `p` of `s`
(45_dma_engine.md R306, R307). -/
structure DrainsTo (s : State) (p : Nat) (t : State) (frames : List (List Byte)) : Prop where
  safe : t.fault = none
  stopped : t.txRunning = false
  empty : txBusyCount t (layoutFor t.cfg) = 0
  agrees : t.hwTxIdx = t.txCursor
  wire : t.wireTx = s.wireTx ++ frames
  frameOf : ∀ j < frames.length, ∃ frame, frames[j]? = some frame ∧ IsFrameOf s ((p + j) % s.cfg.n) frame

theorem EngineRuns.drainsTo_of_empty (h : EngineRuns s p) (hcount : txBusyCount s (layoutFor s.cfg) = 0) (d : Draw) :
    DrainsTo s p { s.beginTurn d with txRunning := false } [] := by
  obtain ⟨w, hlt, hr, -⟩ := h.tailWord
  exact {
    safe := h.safe
    stopped := rfl
    empty := hcount
    agrees := (drained_of_count_zero h.setup h.occupancy hr h.tail hlt hcount).2
    wire := (List.append_nil _).symm
    frameOf := nofun }

/-- The frame sent at the tail, and then those of a drain from the slot after it. -/
theorem DrainsTo.of_frameSent {d : Draw} {w : Word} {frames : List (List Byte)}
    (h : DrainsTo ((s.beginTurn d).frameSent p w) (cursorNext s.cfg.n p) t frames) (hlt : p < s.cfg.n)
    (hread : s.mem.readWord ((layoutFor s.cfg).txd1Off p) = some w) (hlen : frames.length + 1 ≤ s.cfg.n) :
    DrainsTo s p t ((s.beginTurn d).frameAt ((layoutFor s.cfg).txbOff s.cfg.mtu p) (txLen w) :: frames) where
  safe := h.safe
  stopped := h.stopped
  empty := h.empty
  agrees := h.agrees
  wire := by rw [h.wire, List.append_cons]; rfl
  frameOf := by
    rintro (_ | j) hj
    · rw [Nat.add_zero, Nat.mod_eq_of_lt hlt]
      exact ⟨_, rfl, frameAt_isFrameOf hread d⟩
    · have hj : j < frames.length := Nat.lt_of_succ_lt_succ hj
      obtain ⟨frame, hframe, hof⟩ := h.frameOf j hj
      have hslot : (cursorNext s.cfg.n p + j) % s.cfg.n = (p + (j + 1)) % s.cfg.n := by
        rw [cursorNext, Nat.mod_add_mod, Nat.add_assoc, Nat.add_comm 1]
      have hof : IsFrameOf ((s.beginTurn d).frameSent p w) ((p + (j + 1)) % s.cfg.n) frame := hslot ▸ hof
      exact ⟨frame, hframe, hof.of_frameSent (s := s.beginTurn d) hlt (Nat.mod_lt _ (Nat.zero_lt_of_lt hlt))
        (ring_add_ne hlt hlen hj)⟩

/-- A running engine with `m` frames in flight and an agenda of its own steps sends them in ring order and stops. -/
theorem EngineRuns.run_drains (m : Nat) (h : EngineRuns s p) (hcount : txBusyCount s (layoutFor s.cfg) = m)
    (hagenda : s.agenda = List.replicate m (.dma .txFrame Draw.free) ++ [.dma .txStop Draw.free]) :
    ∃ (t : State) (frames : List (List Byte)), Sys2Proof.core.run (m + 1) s = .next t ∧ frames.length = m ∧
      DrainsTo s p t frames := by
  induction m generalizing s p with
  | zero =>
    have hstep := h.step_stops hcount (nextTurn_of_agenda hagenda)
    exact ⟨_, [], run_succ_of_next Sys2Proof.core hstep 0, rfl, h.drainsTo_of_empty hcount .free⟩
  | succ m ih =>
    rw [List.replicate_succ, List.cons_append] at hagenda
    obtain ⟨w, hlt, hread, hused, hstep⟩ := h.step_sends (by omega) (nextTurn_of_agenda hagenda)
    have hless := txBusyCount_frameSent (s := s.beginTurn .free) hlt hread hused
    have hm : m + 1 ≤ s.cfg.n := hcount ▸ countP_range_le _ _
    obtain ⟨t, frames, hrun, rfl, hdrains⟩ := ih (h.next hlt hread hused hstep) (Nat.succ.inj (hless.symm.trans hcount))
      (congrArg List.tail hagenda)
    exact ⟨t, _, (run_succ_of_next Sys2Proof.core hstep _).trans hrun, rfl, hdrains.of_frameSent hlt hread hm⟩

end Sys2Proof.Machine
end

section
/-! PROOFS. A running engine drains (45_dma_engine.md R304, R306, R307). -/

open Sys2Proof Sys2Proof.Machine

/-- Settles O60: by induction on the frames in flight, each step sending the one at the engine's position. -/
theorem runningEngineDrains : Obligations.RunningEngineDrains := by
  intro s m hf hr hon hclaim hcount hagenda
  obtain ⟨p, w, -, -, -, -, hp, -⟩ := txTail_of_inv hr.setup hr.words hon
  have hruns : EngineRuns s p := ⟨hf, hr.setup, hr.words, hr.tx, hon, hclaim, hp⟩
  obtain ⟨t, frames, hrun, rfl, hdrains⟩ := hruns.run_drains m hcount hagenda
  refine ⟨t, p, hrun, hp, hdrains.safe, hdrains.stopped, hdrains.empty, hdrains.agrees, ?_, ?_, fun j hj => ?_⟩
  · rw [hdrains.wire, List.length_append]
  · rw [hdrains.wire, List.take_left]
  · obtain ⟨frame, hframe, w, hread, hlength, hbytes⟩ := hdrains.frameOf j hj
    refine ⟨w, frame, hread, ?_, hlength, hbytes⟩
    rw [hdrains.wire, List.getElem?_append_right (Nat.le_add_right _ _), Nat.add_sub_cancel_left, hframe]

end
